-- ==== Sys2Proof/Word.lean ====
section
/-! DEFINITION. The widths of the block's values (00_scope.md rule R11) and the two-valued types the
spec gives names and one-bit encodings to (10_state.md rule R13). -/

namespace Sys2Proof

/-- A byte: "an unsigned 8-bit value, 0 to 255"; bit 7 is its most significant bit (R11). -/
abbrev Byte := BitVec 8

/-- A RegisterAddress: "unsigned integer, 7 significant bits (0–127)" (R11). -/
abbrev Addr := BitVec 7

/-- The 20-bit event word `EV` (R45). -/
abbrev EventWord := BitVec 20

/-- The direction of a chip-select cycle (R11, R16). -/
inductive Direction where
  | read
  | write
  deriving DecidableEq, Repr, Inhabited

/-- How the next data-exchange event will be read (R14). -/
inductive Phase where
  | awaitingAddress
  | inData
  deriving DecidableEq, Repr

end Sys2Proof
end

