-- ==== Sys2Proof/Config.lean ====
section
/-! DEFINITION. The implementation parameters of 00_scope.md rules R6 to R10: one record, the variant
descriptor, which a decoder instance is bound to for its whole life, and the values the spec leaves
OPEN, as constants without a body. -/

namespace Sys2Proof

/-- `VERBOSITY` (R6, R8): whether data-phase events are produced at all. -/
inductive Verbosity where
  | addressOnly
  | full
  deriving DecidableEq, Repr

/-- `STYLE` (R6): which display strings the output carries. -/
inductive Style where
  | plain
  | annotated
  deriving DecidableEq, Repr

/-- `NAME_TABLE` (R6, R28): a partial map from 0..127 to string, listed by rising address. An address
that is not listed holds nothing. -/
abbrev NameTable := List (Nat × String)

/-- The variant descriptor of R6, R23: all seven parameters. -/
structure Config where
  /-- `FIFO_ADDR`: "the one address that does not auto-increment". -/
  fifoAddr  : Addr
  verbosity : Verbosity
  style     : Style
  nameTable : NameTable
  /-- `SENTINEL`: the name returned for an address absent from `NAME_TABLE`. -/
  sentinel  : String
  /-- `CHAR_OF` where it is OPEN: its strings for the bytes `0x00` to `0x1F` and `0x7F` to `0xFF`, in this order.
  Between them it is fixed (R106) and nothing is stored. -/
  openChars : Vector String 161
  /-- `TW`: the width in bits of a timestamp on the ports, a positive integer. -/
  tw        : Nat
  deriving DecidableEq, Repr

/-- FREE VALUE: `CHAR_OF` bound at `State.reset`, for the bytes outside `0x20` to `0x7E` (R106, decision D14,
U3). -/
opaque Config.boundOpenChars : Vector String 161

/-- FREE VALUE: the entries of the Register Table bound at `State.reset` (R100, decision D16, U4). -/
opaque Config.boundEntry : Addr → Option String

/-- FREE VALUE: the sentinel string bound at `State.reset` (R95, decision D16, U4). -/
opaque Config.boundSentinel : String

/-- FREE VALUE: one less than the timestamp width bound at `State.reset` (R6, decision D7, U15). -/
opaque Config.boundTimestampBits : Nat

/-- FREE VALUE: what `cur_addr` holds after a reset, by the number of the reset and not by the instance (R25; log 1). -/
opaque Config.resetAddr : Nat → Addr

/-- FREE VALUE: what `dir` holds after a reset, by the number of the reset and not by the instance (R25; log 1). -/
opaque Config.resetDir : Nat → Direction

/-- The table that holds, by rising address, exactly the entries a partial map gives. -/
def NameTable.ofEntries (f : Addr → Option String) : NameTable :=
  (List.range 128).filterMap fun k => (f (BitVec.ofNat 7 k)).map fun n => (k, n)

/-- `CFG_A_ADDR` (00_scope.md section 3): Variant A's simplest historical form. -/
def Config.aAddr (names : NameTable) (sentinel : String) (chars : Vector String 161) (tw : Nat) :
    Config :=
  ⟨0x00, .addressOnly, .plain, names, sentinel, chars, tw⟩

/-- `CFG_A_FULL` (00_scope.md section 3): Variant A, full decode. -/
def Config.aFull (names : NameTable) (sentinel : String) (chars : Vector String 161) (tw : Nat) :
    Config :=
  ⟨0x00, .full, .plain, names, sentinel, chars, tw⟩

/-- `CFG_B` (00_scope.md section 3): Variant B. -/
def Config.b (names : NameTable) (sentinel : String) (chars : Vector String 161) (tw : Nat) :
    Config :=
  ⟨0x00, .full, .plain, names, sentinel, chars, tw⟩

/-- `CFG_C` (00_scope.md section 3): Variant C, the Si4432 family. -/
def Config.c (names : NameTable) (sentinel : String) (chars : Vector String 161) (tw : Nat) :
    Config :=
  ⟨0x7F, .full, .annotated, names, sentinel, chars, tw⟩

/-- The parameters bound at `State.reset`: `CFG_B`, with the table, the sentinel, `CHAR_OF` where it is open and
the timestamp width left free. DESIGN CHOICE (log 3): the spec binds no variant by default; every claim about a
step is made over all values of `State.cfg`. -/
def Config.bound : Config :=
  Config.b (NameTable.ofEntries Config.boundEntry) Config.boundSentinel Config.boundOpenChars
    (Config.boundTimestampBits + 1)

end Sys2Proof
end

