-- ==== Sys2Proof/Syntax.lean ====
section
/-! DEFINITION. The instructions of the block, which are its input events in the forms of the opcode table
(30_encoding.md rules R44, R55, R60), and the records that cross its boundary: the ports of one clock
period (R43), the input event (R42) and the output event (R52, R54). -/

namespace Sys2Proof

/-- The instructions: one constructor per row of spec/opcode_table.json. `xfer` is the umbrella row of the
class; the seven `xferX` rows are the same event words told apart by state (R55); the two `addr` rows are
the address byte inside an `XFER.A` event (R49). A field holds what the row's word holds outside the bits
R45 and R47 call ignored; a byte is `none` where its valid bit is 0. -/
inductive Instr where
  /-- `SEL` (R66). -/
  | sel
  /-- `OTH.K0` (R67). -/
  | othK0
  /-- `OTH.K3` (R67). -/
  | othK3
  /-- `XFER` (R62): the data-exchange event with its two optional bytes. -/
  | xfer (c2p p2c : Option Byte)
  /-- `XFER.A` (R72): `c2p` present, read as the address byte `W : A`. -/
  | xferA (w : Direction) (a : Addr) (p2c : Option Byte)
  /-- `XFER.A.DROP` (R75): `c2p` absent in the address phase. -/
  | xferADrop (p2c : Option Byte)
  /-- `XFER.W` (R81): the data byte `d` is `c2p`. -/
  | xferW (d : Byte) (p2c : Option Byte)
  /-- `XFER.W.DROP` (R83): `c2p` absent in a write cycle. -/
  | xferWDrop (p2c : Option Byte)
  /-- `XFER.R` (R82): the data byte `d` is `p2c`. -/
  | xferR (d : Byte) (c2p : Option Byte)
  /-- `XFER.R.DROP` (R84): `p2c` absent in a read cycle. -/
  | xferRDrop (c2p : Option Byte)
  /-- `XFER.AO` (R91): a data-phase exchange under `address_only`. -/
  | xferAO (c2p p2c : Option Byte)
  /-- `ADDR.RD` (R73): the address byte `0aaaaaaa`. -/
  | addrRd (a : Addr)
  /-- `ADDR.WR` (R74): the address byte `1aaaaaaa`. -/
  | addrWr (a : Addr)
  deriving DecidableEq, Repr

/-- The kinds of event (R44, R46). The two codes of the class `OTH` are kept apart as the table keeps them. -/
inductive Kind where
  | other0
  | selectAsserted
  | dataExchange
  | other3
  deriving DecidableEq, Repr

/-- The input ports in one clock period (R43; `rst`: R126). `clk` has no level of its own here: one period is
one element of the feed. -/
structure Period where
  rst      : Bool
  evValid  : Bool
  kind     : BitVec 2
  c2pValid : Bool
  c2p      : Byte
  p2cValid : Bool
  p2c      : Byte
  tStart   : Nat
  tEnd     : Nat
  deriving DecidableEq, Repr

/-- The three categories of output event, "and no others" (R52). -/
inductive Category where
  | address
  | read
  | write
  deriving DecidableEq, Repr

/-- The numeric record `{cat, addr, dir, data, t_start, t_end}` that the rules `emit` (R54). -/
structure OutEvent where
  cat    : Category
  addr   : Addr
  dir    : Direction
  data   : Option Byte
  tStart : Nat
  tEnd   : Nat
  deriving DecidableEq, Repr

/-- The output ports of a period with `out_valid = 1` (R53). `outData` is `none` where `out_data_valid = 0`,
so that `out_data` carries no meaning; a period with `out_valid = 0` has no such record (U10). -/
structure OutPorts where
  outCat       : BitVec 2
  outAddr      : Addr
  outDir       : BitVec 1
  outDataValid : BitVec 1
  outData      : Option Byte
  outTStart    : Nat
  outTEnd      : Nat
  deriving DecidableEq, Repr

end Sys2Proof
end

