-- ==== Sys2Proof/WellFormed.lean ====
section
/-! DEFINITION. Which terms are well formed. Every instruction is: "All 256 values of the address byte are
legal" (30_encoding.md rule R51) and "Every value of the 20-bit event word has a defined effect" (R56). The
checks that can fail are on the parameters, on the timestamps of a period and on an output record. -/

namespace Sys2Proof

/-- No operand value is reserved or refused (R51, R56). -/
def Instr.wf : Instr → Bool
  | .sel => true
  | .othK0 => true
  | .othK3 => true
  | .xfer _ _ => true
  | .xferA _ _ _ => true
  | .xferADrop _ => true
  | .xferW _ _ => true
  | .xferWDrop _ => true
  | .xferR _ _ => true
  | .xferRDrop _ => true
  | .xferAO _ _ => true
  | .addrRd _ => true
  | .addrWr _ => true

/-- The Register Table's canonical form: addresses strictly rising from `low` on, each below 128 (R28). -/
def NameTable.wfFrom : Nat → NameTable → Bool
  | _, [] => true
  | low, (k, _) :: rest => decide (low ≤ k) && decide (k < 128) && NameTable.wfFrom (k + 1) rest

/-- The Register Table is in canonical form: equal tables are equal data. -/
def NameTable.wf (t : NameTable) : Bool := NameTable.wfFrom 0 t

/-- The parameters are legal: `TW` is positive (R6) and the table is in canonical form. -/
def Config.wf (c : Config) : Bool := decide (0 < c.tw) && NameTable.wf c.nameTable

/-- The timestamps of a period fit the `TW` bits of their ports (R43, R48). -/
def Period.wf (c : Config) (p : Period) : Bool := decide (p.tStart < 2 ^ c.tw) && decide (p.tEnd < 2 ^ c.tw)

/-- An output record carries what its category carries (R54): "In a `write` or `read` event `cat` and `dir`
always agree", and data stands in exactly those two. -/
def OutEvent.wf (r : OutEvent) : Bool :=
  match r.cat with
  | .address => r.data.isNone
  | .read => decide (r.dir = .read) && r.data.isSome
  | .write => decide (r.dir = .write) && r.data.isSome

end Sys2Proof
end

