-- ==== Sys2Proof/Decode.lean ====
section
/-! DEFINITION. The event word `EV` and the address byte `AB` (30_encoding.md rules R45 to R51): decoding,
which is total on every word, the state-dependent case split into the rows of the opcode table (R55, R60),
and the encoder, written from the same layouts. -/

namespace Sys2Proof

/-! ## One-bit and two-bit encodings -/

/-- `dir` encoded: 0 = Read, 1 = Write (R13, decision D6). -/
def Direction.bit : Direction → BitVec 1
  | .read => 0b0
  | .write => 0b1

/-- `phase` encoded: 1 = AwaitingAddress, 0 = InData (R13, decision D6). -/
def Phase.bit : Phase → BitVec 1
  | .awaitingAddress => 0b1
  | .inData => 0b0

/-- `VERBOSITY` encoded: `address_only` = 0, `full` = 1 (R23, decision D11). -/
def Verbosity.bit : Verbosity → BitVec 1
  | .addressOnly => 0b0
  | .full => 0b1

/-- `STYLE` encoded: `plain` = 0, `annotated` = 1 (R23, decision D11). -/
def Style.bit : Style → BitVec 1
  | .plain => 0b0
  | .annotated => 0b1

/-- `kind[1:0]` decoded (R46): no code is refused. -/
def kindOfBits (k : BitVec 2) : Kind :=
  if k = 0b01 then .selectAsserted
  else if k = 0b10 then .dataExchange
  else if k = 0b00 then .other0
  else .other3

/-- `kind[1:0]` encoded (R46). -/
def Kind.bits : Kind → BitVec 2
  | .other0 => 0b00
  | .selectAsserted => 0b01
  | .dataExchange => 0b10
  | .other3 => 0b11

/-! ## The address byte (R49, R50) -/

/-- "Direction = Write if bit 7 of that byte is set, else Read" (R50). -/
def byteDir (b : Byte) : Direction := if b.getLsbD 7 then .write else .read

/-- "currentAddress = that byte with bit 7 cleared": `b[6:0]` (R50). -/
def byteAddr (b : Byte) : Addr := b.extractLsb' 0 7

/-- The address byte `W : A` (R49). -/
def addressByte (w : Direction) (a : Addr) : Byte := w.bit ++ a

/-! ## The event word (R45, R47) -/

/-- "optional(byte)" on the ports: a valid bit beside eight data bits, which have no effect when the valid
bit is 0 (R47). -/
def optByte (valid : Bool) (b : Byte) : Option Byte := if valid then some b else none

/-- `EV = ev_kind : ev_c2p_valid : ev_p2c_valid : ev_c2p : ev_p2c` (R45). -/
def packWord (kind : BitVec 2) (c2pValid p2cValid : Bool) (c2p p2c : Byte) : EventWord :=
  kind ++ BitVec.ofBool c2pValid ++ BitVec.ofBool p2cValid ++ c2p ++ p2c

/-- The `kind` field of an event word. -/
def wordKind (w : EventWord) : BitVec 2 := w.extractLsb' 18 2

/-- The optional controller-to-peripheral byte of an event word. -/
def wordC2p (w : EventWord) : Option Byte := optByte (w.getLsbD 17) (w.extractLsb' 8 8)

/-- The optional peripheral-to-controller byte of an event word. -/
def wordP2c (w : EventWord) : Option Byte := optByte (w.getLsbD 16) (w.extractLsb' 0 8)

/-- The canonical word of an event: zeros in every ignored field (R45). -/
def canonicalWord (kind : BitVec 2) (c2p p2c : Option Byte) : EventWord :=
  packWord kind c2p.isSome p2c.isSome (c2p.getD 0) (p2c.getD 0)

/-- The event word on the input ports of a period (R43, R45). -/
def Period.word (p : Period) : EventWord := packWord p.kind p.c2pValid p.p2cValid p.c2p p.p2c

/-! ## Decoding -/

/-- The class of an event word, told by `kind` alone (R44, R46); every word has one (R56). -/
def decodeWord (w : EventWord) : Instr :=
  match kindOfBits (wordKind w) with
  | .selectAsserted => .sel
  | .dataExchange => .xfer (wordC2p w) (wordP2c w)
  | .other0 => .othK0
  | .other3 => .othK3

/-- The row an address byte stands in (R49, rows `ADDR.RD` and `ADDR.WR`). -/
def decodeByte (b : Byte) : Instr :=
  match byteDir b with
  | .read => .addrRd (byteAddr b)
  | .write => .addrWr (byteAddr b)

/-- An instruction's bits: an event word (format `EV`) or an address byte (format `AB`). -/
inductive Encoded where
  | ev (w : EventWord)
  | ab (b : Byte)
  deriving DecidableEq, Repr

/-- Decoding without the state: an `XFER` word gives the umbrella row. -/
def decode : Encoded → Instr
  | .ev w => decodeWord w
  | .ab b => decodeByte b

/-- Why a number is no instruction word of the table. -/
inductive DecodeError where
  /-- bits above 7 in an address byte -/
  | addressByteTooWide
  /-- bits above 19 in an event word -/
  | eventWordTooWide
  deriving DecidableEq, Repr

/-- The instruction bits that a number of `nbits` bits stands for: up to 8 bits an address byte, more an event
word, of which bits 19:0 exist. -/
def readTableWord (nbits w : Nat) : Except DecodeError Encoded :=
  if nbits ≤ 8 then
    if w < 2 ^ 8 then .ok (.ab (BitVec.ofNat 8 w)) else .error .addressByteTooWide
  else
    if w < 2 ^ 20 then .ok (.ev (BitVec.ofNat 20 w)) else .error .eventWordTooWide

/-- The decoder on a number, rejecting by name. -/
def decodeTable (nbits w : Nat) : Except DecodeError Instr :=
  match readTableWord nbits w with
  | .ok e => .ok (decode e)
  | .error r => .error r

/-- The instruction the decoder reads from bits numbered as spec/opcode_table.json numbers them. -/
def decodeTableWord (nbits w : Nat) : Option Instr :=
  match decodeTable nbits w with
  | .ok i => some i
  | .error _ => none

/-! ## The rows of the umbrella `XFER` (R55, R60) -/

/-- The seven rows that refine `XFER`. -/
inductive XferRow where
  | a
  | aDrop
  | w
  | wDrop
  | r
  | rDrop
  | ao
  deriving DecidableEq, Repr

/-- The row's `mask` in spec/opcode_table.json. -/
def XferRow.mask : XferRow → EventWord
  | .a => 0xE0000
  | .aDrop => 0xE0000
  | .w => 0xE0000
  | .wDrop => 0xE0000
  | .r => 0xD0000
  | .rDrop => 0xD0000
  | .ao => 0xC0000

/-- The row's `match` in spec/opcode_table.json. -/
def XferRow.pattern : XferRow → EventWord
  | .a => 0xA0000
  | .aDrop => 0x80000
  | .w => 0xA0000
  | .wDrop => 0x80000
  | .r => 0x90000
  | .rDrop => 0x80000
  | .ao => 0x80000

/-- The row's `when` in spec/opcode_table.json, on `phase`, `VERBOSITY` and the held `dir`. -/
def XferRow.holds (phase : Phase) (v : Verbosity) (dir : Direction) : XferRow → Bool
  | .a => decide (phase = .awaitingAddress)
  | .aDrop => decide (phase = .awaitingAddress)
  | .w => decide (phase = .inData) && decide (dir = .write) && decide (v = .full)
  | .wDrop => decide (phase = .inData) && decide (dir = .write) && decide (v = .full)
  | .r => decide (phase = .inData) && decide (dir = .read) && decide (v = .full)
  | .rDrop => decide (phase = .inData) && decide (dir = .read) && decide (v = .full)
  | .ao => decide (phase = .inData) && decide (v = .addressOnly)

/-- The row an instruction is a form of, for the seven that have a `when` on the state. -/
def Instr.xferRow : Instr → Option XferRow
  | .sel => none
  | .othK0 => none
  | .othK3 => none
  | .xfer _ _ => none
  | .xferA _ _ _ => some .a
  | .xferADrop _ => some .aDrop
  | .xferW _ _ => some .w
  | .xferWDrop _ => some .wDrop
  | .xferR _ _ => some .r
  | .xferRDrop _ => some .rDrop
  | .xferAO _ _ => some .ao
  | .addrRd _ => none
  | .addrWr _ => none

/-- The row that a data-exchange event is in a given state (R55): `kind` selects the class, `phase` the address
form or the data forms, `VERBOSITY` and the held `dir` the byte looked at. Every state selects one (R60): `dir` always
holds a value, a free one until an address byte writes it (log 1). -/
def rowOf (phase : Phase) (v : Verbosity) (dir : Direction) (c2p p2c : Option Byte) : Instr :=
  match phase, v, dir with
  | .awaitingAddress, _, _ =>
    match c2p with
    | some b => .xferA (byteDir b) (byteAddr b) p2c
    | none => .xferADrop p2c
  | .inData, .addressOnly, _ => .xferAO c2p p2c
  | .inData, .full, .write =>
    match c2p with
    | some d => .xferW d p2c
    | none => .xferWDrop p2c
  | .inData, .full, .read =>
    match p2c with
    | some d => .xferR d c2p
    | none => .xferRDrop c2p

/-- Decoding in a given state: the class, then the row of an `XFER` (R55). -/
def decodeIn (phase : Phase) (v : Verbosity) (dir : Direction) (w : EventWord) : Instr :=
  match decodeWord w with
  | .xfer c2p p2c => rowOf phase v dir c2p p2c
  | i => i

/-! ## Encoding -/

/-- The controller-to-peripheral byte of the event an instruction is a form of; an address-byte row is that
byte, present, of an event whose other byte is absent. -/
def Instr.c2p : Instr → Option Byte
  | .sel => none
  | .othK0 => none
  | .othK3 => none
  | .xfer c2p _ => c2p
  | .xferA w a _ => some (addressByte w a)
  | .xferADrop _ => none
  | .xferW d _ => some d
  | .xferWDrop _ => none
  | .xferR _ c2p => c2p
  | .xferRDrop c2p => c2p
  | .xferAO c2p _ => c2p
  | .addrRd a => some (addressByte .read a)
  | .addrWr a => some (addressByte .write a)

/-- The peripheral-to-controller byte of the event an instruction is a form of. -/
def Instr.p2c : Instr → Option Byte
  | .sel => none
  | .othK0 => none
  | .othK3 => none
  | .xfer _ p2c => p2c
  | .xferA _ _ p2c => p2c
  | .xferADrop p2c => p2c
  | .xferW _ p2c => p2c
  | .xferWDrop p2c => p2c
  | .xferR d _ => some d
  | .xferRDrop _ => none
  | .xferAO _ p2c => p2c
  | .addrRd _ => none
  | .addrWr _ => none

/-- The kind of the event an instruction is a form of (R44, R46). -/
def Instr.kind : Instr → Kind
  | .sel => .selectAsserted
  | .othK0 => .other0
  | .othK3 => .other3
  | .xfer _ _ => .dataExchange
  | .xferA _ _ _ => .dataExchange
  | .xferADrop _ => .dataExchange
  | .xferW _ _ => .dataExchange
  | .xferWDrop _ => .dataExchange
  | .xferR _ _ => .dataExchange
  | .xferRDrop _ => .dataExchange
  | .xferAO _ _ => .dataExchange
  | .addrRd _ => .dataExchange
  | .addrWr _ => .dataExchange

/-- The canonical event word of the event an instruction is a form of. -/
def Instr.eventWord (i : Instr) : EventWord := canonicalWord i.kind.bits i.c2p i.p2c

/-- The canonical bits of an instruction. -/
def encode : Instr → Encoded
  | .sel => .ev (Instr.eventWord .sel)
  | .othK0 => .ev (Instr.eventWord .othK0)
  | .othK3 => .ev (Instr.eventWord .othK3)
  | .xfer c2p p2c => .ev (Instr.eventWord (.xfer c2p p2c))
  | .xferA w a p2c => .ev (Instr.eventWord (.xferA w a p2c))
  | .xferADrop p2c => .ev (Instr.eventWord (.xferADrop p2c))
  | .xferW d p2c => .ev (Instr.eventWord (.xferW d p2c))
  | .xferWDrop p2c => .ev (Instr.eventWord (.xferWDrop p2c))
  | .xferR d c2p => .ev (Instr.eventWord (.xferR d c2p))
  | .xferRDrop c2p => .ev (Instr.eventWord (.xferRDrop c2p))
  | .xferAO c2p p2c => .ev (Instr.eventWord (.xferAO c2p p2c))
  | .addrRd a => .ab (addressByte .read a)
  | .addrWr a => .ab (addressByte .write a)

/-- What the decoder without the state gives back for an instruction's own bits: the umbrella `XFER` for its
refinements, the instruction itself otherwise. -/
def Instr.umbrella (i : Instr) : Instr :=
  match i.xferRow with
  | some _ => .xfer i.c2p i.p2c
  | none => i

/-- The `mask` of an instruction's row in spec/opcode_table.json. -/
def Instr.rowMask (i : Instr) : BitVec 20 :=
  match i.xferRow, i with
  | some row, _ => row.mask
  | none, .addrRd _ => 0x80
  | none, .addrWr _ => 0x80
  | none, _ => 0xC0000

/-- The `match` of an instruction's row in spec/opcode_table.json. -/
def Instr.rowPattern (i : Instr) : BitVec 20 :=
  match i.xferRow, i with
  | some row, _ => row.pattern
  | none, .addrWr _ => 0x80
  | none, .addrRd _ => 0x00
  | none, .sel => 0x40000
  | none, .othK3 => 0xC0000
  | none, .othK0 => 0x00000
  | none, _ => 0x80000

/-- The bits of an instruction as the number the table matches on. -/
def Encoded.bits : Encoded → BitVec 20
  | .ev w => w
  | .ab b => b.setWidth 20

end Sys2Proof
end

