-- ==== Sys2Proof/Machine/State.lean ====
section
/-! DEFINITION. The state of one decoder instance (10_state.md rule R13) with what the host's interface makes
the model hold beside it (the parameters, the input periods still to come, the output of the period last run),
the reasons a step can stop (none), and the reset state (70_reset_and_hazards.md rule R127). -/

namespace Sys2Proof.Machine

/-- The two sites of the one error class (R112, decision D20): "for a model's bookkeeping". -/
inductive DropSite where
  | addrByteAbsent
  | dataByteAbsent
  deriving DecidableEq, Repr

structure State where
  /-- R14: how the next data-exchange event will be read. -/
  phase   : Phase
  /-- R15: "the 7-bit register address the decoder believes the next data byte belongs to". -/
  curAddr : Addr
  /-- R16: the direction of the current cycle. -/
  dir     : Direction
  /-- R25, R124: has an address byte been accepted since reset? While it is false `curAddr` and `dir` "hold no
  specified value": their contents are free values. No operation reads this mark; claims do. The model's own field
  (log 1). -/
  written : Bool
  /-- The number of resets so far, for which `Config.resetAddr` and `Config.resetDir` give the contents of `curAddr`
  and `dir`. The model's own field (log 1). -/
  resets  : Nat
  /-- R6, R9: the parameters the instance is bound to; no step changes them (log 2). -/
  cfg     : Config
  /-- R131, R140: the input periods the front-end has still to deliver, next first (log 4). -/
  feed    : List Period
  /-- R48: `ev_t_start` in the period in hand (log 5). -/
  tStart  : Nat
  /-- R48: `ev_t_end` in the period in hand (log 5). -/
  tEnd    : Nat
  /-- R53: the output event of the period last run; `none` is `out_valid = 0` (log 6). -/
  out     : Option OutEvent
  /-- R112: the site at which the period last run dropped its event. The model's own label (log 7). -/
  drop    : Option DropSite
  deriving DecidableEq, Repr

/-- Why the machine stops: it never does. "No event, malformed or not, halts it, locks it" (R116), and the fault that
R124 advises for a model is not taken (log 1): "The hardware would use whatever its flip-flops hold", and so does
this machine. -/
inductive Fault where
  deriving DecidableEq, Repr

/-- Why the model gives an instruction no meaning. -/
inductive Refusal where
  /-- An instruction without a meaning yet, by its mnemonic. Raised by no arm of `exec`. Safe. -/
  | notModelled (mnemonic : String)
  deriving DecidableEq, Repr

/-- The reset state of an instance bound to given parameters (R26, R127), at its reset number `n`. `curAddr` and
`dir` "hold no specified value" there: they hold free values (log 1). DESIGN CHOICE, unsafe (log 1): the free values
depend on the reset number alone, so that two instances at one reset number hold the same unwritten contents, where the
spec leaves open for each instance what they are and how those of two instances relate (R12, R25, R40, R122). -/
def State.resetWith (c : Config) (n : Nat) : State where
  phase := .inData
  curAddr := Config.resetAddr n
  dir := Config.resetDir n
  written := false
  resets := n
  cfg := c
  feed := []
  tStart := 0
  tEnd := 0
  out := none
  drop := none

/-- The machine right after reset, with nothing delivered yet. -/
def State.reset : State := State.resetWith Config.bound 0

end Sys2Proof.Machine
end

