-- ==== Sys2Proof/Machine/Flags.lean ====
section
/-! DEFINITION. The sequencing flag `phase` (40_event_sequencing.md rules R63, R64, R69). The block computes no
other flag: "no carry out, no overflow flag" (42_data_phase.md rule R93). -/

namespace Sys2Proof.Machine

/-- `phase` after an event: "`phase = AwaitingAddress` exactly when that step's event was a `SEL`" (R64). -/
def phaseAfter : Kind → Phase
  | .selectAsserted => .awaitingAddress
  | .dataExchange => .inData
  | .other0 => .inData
  | .other3 => .inData

end Sys2Proof.Machine
end

