-- ==== Sys2Proof/Machine/Operands.lean ====
section
/-! DEFINITION. The operands of a step: the byte that the held direction selects, and the
block's whole arithmetic (42_data_phase.md rules R80, R86, R93). The address byte's fields are in Decode. -/

namespace Sys2Proof.Machine

/-- "the controller-to-peripheral byte if direction is Write, the peripheral-to-controller byte if direction
is Read" (R80). -/
def selectByte (d : Direction) (c2p p2c : Option Byte) : Option Byte :=
  match d with
  | .write => c2p
  | .read => p2c

/-- The tag that matches a direction (R81, R82). -/
def dataCategory : Direction → Category
  | .write => .write
  | .read => .read

/-- Auto-increment modulo 128 and FIFO hold (R86, R87). -/
def nextAddr (fifo a : Addr) : Addr := if a = fifo then a else a + 1

end Sys2Proof.Machine
end

