-- ==== Sys2Proof/Machine/Ops.lean ====
section
/-! DEFINITION. The operations that the meanings and the step are written with: the primitives of 00_scope.md
section 6 (`emit`, `no_output`, `drop`), the writes of the three registers, and what a clock period does
without an event. The block has no traps; the handling of its one error class, `dropEvent`, is what stands
where another machine takes an exception (60_exceptions.md rules R113, R118), and there is no return from it
(R119). -/

namespace Sys2Proof.Machine

/-- The unconditional record of the current event's kind (R64). -/
def recordKind (k : Kind) (s : State) : State := { s with phase := phaseAfter k }

/-- `no_output`: "the step produces no output event". -/
def noOutput (s : State) : State := { s with out := none, drop := none }

/-- `emit(rec)`: "the step's output is the record". -/
def emit (r : OutEvent) (s : State) : State := { s with out := some r, drop := none }

/-- `drop <Site>`: "the step produces no output and writes no state beyond what the rule has already written"
(R113). -/
def dropEvent (site : DropSite) (s : State) : State := { s with out := none, drop := some site }

/-- An accepted address byte writes `dir` and `cur_addr`, both in the same step (R18, R50). -/
def writeAddress (w : Direction) (a : Addr) (s : State) : State :=
  { s with dir := w, curAddr := a, written := true }

/-- The address event (R54, R77); timestamps "copied from the input event" (R109). -/
def addressEvent (w : Direction) (a : Addr) (s : State) : OutEvent :=
  { cat := .address, addr := a, dir := w, data := none, tStart := s.tStart, tEnd := s.tEnd }

/-- The read or write event of a data byte, under the address held before the increment (R54, R85). -/
def dataEvent (w : Direction) (d : Byte) (s : State) : OutEvent :=
  { cat := dataCategory w, addr := s.curAddr, dir := w, data := some d, tStart := s.tStart, tEnd := s.tEnd }

/-- "if cur_addr != FIFO_ADDR: cur_addr <- (cur_addr + 1) mod 128" (R86). -/
def autoIncrement (s : State) : State := { s with curAddr := nextAddr s.cfg.fifoAddr s.curAddr }

/-- The input ports take the values of the next period. -/
def presentPeriod (p : Period) (rest : List Period) (s : State) : State :=
  { s with feed := rest, tStart := p.tStart, tEnd := p.tEnd }

/-- A period with `rst = 1`: no step, no output, and the reset state at its end, with the parameters as bound and
the free values of one reset more (R126, R127). -/
def takeReset (s : State) : State :=
  { State.resetWith s.cfg (s.resets + 1) with feed := s.feed, tStart := s.tStart, tEnd := s.tEnd }

/-- A period without an event: no step, no state change, `out_valid = 0` (R61). -/
def idlePeriod (s : State) : State := noOutput s

/-- The instruction on the input ports. -/
def fetchInstr (p : Period) : Instr := decodeWord p.word

/-- The period that presents an event word, with given timestamps. -/
def wordPeriod (w : EventWord) (t0 t1 : Nat) : Period where
  rst := false
  evValid := true
  kind := wordKind w
  c2pValid := w.getLsbD 17
  c2p := w.extractLsb' 8 8
  p2cValid := w.getLsbD 16
  p2c := w.extractLsb' 0 8
  tStart := t0
  tEnd := t1

/-- The period with nothing on the ports. -/
def emptyPeriod (t0 t1 : Nat) : Period where
  rst := false
  evValid := false
  kind := 0
  c2pValid := false
  c2p := 0
  p2cValid := false
  p2c := 0
  tStart := t0
  tEnd := t1

/-- An event word is put first in the feed. An address byte is put there as the `c2p` byte of an exchange, in the
phase that reads it as an address byte (rows `ADDR.RD`, `ADDR.WR`: "the c2p byte of an XFER.A event"). Bits that
are no instruction put an empty period there. -/
def placeTableWord (nbits w : Nat) (s : State) : State :=
  match readTableWord nbits w with
  | .ok (.ev e) => { s with feed := wordPeriod e s.tStart s.tEnd :: s.feed }
  | .ok (.ab b) =>
    { s with
      feed := wordPeriod (canonicalWord Kind.dataExchange.bits (some b) none) s.tStart s.tEnd :: s.feed
      phase := .awaitingAddress }
  | .error _ => { s with feed := emptyPeriod s.tStart s.tEnd :: s.feed }

end Sys2Proof.Machine
end

