-- ==== Sys2Proof/Machine/Sequencing.lean ====
section
/-! DEFINITION. `SEL`, `OTH` and the umbrella `XFER`, whose meaning is the whole step of 40_event_sequencing.md
rule R62. -/

namespace Sys2Proof.Machine

/-- `SEL` (R66): `phase <- AwaitingAddress`, no output; "The assertion does not clear" `cur_addr` and `dir`. -/
def execSel (s : State) : Host.Outcome State Fault Refusal :=
  .next (noOutput (recordKind .selectAsserted s))

/-- `OTH.K0` (R67): `phase <- InData`, no output. -/
def execOthK0 (s : State) : Host.Outcome State Fault Refusal :=
  .next (noOutput (recordKind .other0 s))

/-- `OTH.K3` (R67): `phase <- InData`, no output. -/
def execOthK3 (s : State) : Host.Outcome State Fault Refusal :=
  .next (noOutput (recordKind .other3 s))

/-- Step 4 of R62, the address phase. `s` has its kind recorded. -/
def addressArm (c2p : Option Byte) (s : State) : State :=
  match c2p with
  | none => dropEvent .addrByteAbsent s
  | some b => emit (addressEvent (byteDir b) (byteAddr b) s) (writeAddress (byteDir b) (byteAddr b) s)

/-- Step 5 of R62, continuing a cycle: `VERBOSITY` first, then the held direction selects one byte, then that
byte's presence (R117). `dir` and `cur_addr` are read whether or not an address byte has written them (R16, R92):
until one has, they hold free values (log 1). `s` has its kind recorded. -/
def dataArm (c2p p2c : Option Byte) (s : State) : State :=
  match s.cfg.verbosity with
  | .addressOnly => noOutput s
  | .full =>
    match selectByte s.dir c2p p2c with
    | none => dropEvent .dataByteAbsent s
    | some b => autoIncrement (emit (dataEvent s.dir b s) s)

/-- The step of R62 for a data-exchange event: the address phase is recognised from the state the previous step left
(R63), and the kind is recorded before anything can end the step (R64). -/
def exchange (c2p p2c : Option Byte) (s : State) : State :=
  match s.phase with
  | .awaitingAddress => addressArm c2p (recordKind .dataExchange s)
  | .inData => dataArm c2p p2c (recordKind .dataExchange s)

/-- `XFER` (R62). -/
def execXfer (c2p p2c : Option Byte) (s : State) : Host.Outcome State Fault Refusal :=
  .next (exchange c2p p2c s)

end Sys2Proof.Machine
end

