-- ==== Sys2Proof/Machine/AddressPhase.lean ====
section
/-! DEFINITION. The rows of the address phase (41_address_phase.md). Each carries the pseudocode of its own rule
under the `when` of its row; in a state that is not the row's, the same event word is another row, which rule
R62 tells, and the meaning is that of the umbrella `XFER` (log 8). -/

namespace Sys2Proof.Machine

/-- `XFER.A` (R72): the address byte is accepted. -/
def execXferA (w : Direction) (a : Addr) (p2c : Option Byte) (s : State) : Host.Outcome State Fault Refusal :=
  if s.phase = .awaitingAddress then
    .next (emit (addressEvent w a s) (writeAddress w a (recordKind .dataExchange s)))
  else execXfer (some (addressByte w a)) p2c s

/-- `XFER.A.DROP` (R75): the address byte is absent. -/
def execXferADrop (p2c : Option Byte) (s : State) : Host.Outcome State Fault Refusal :=
  if s.phase = .awaitingAddress then
    .next (dropEvent .addrByteAbsent (recordKind .dataExchange s))
  else execXfer none p2c s

/-- `ADDR.RD` (R73): the accepted address byte `0aaaaaaa` "starts a *read* cycle". -/
def execAddrRd (a : Addr) (s : State) : Host.Outcome State Fault Refusal :=
  if s.phase = .awaitingAddress then
    .next (emit (addressEvent .read a s) (writeAddress .read a (recordKind .dataExchange s)))
  else execXfer (some (addressByte .read a)) none s

/-- `ADDR.WR` (R74): the accepted address byte `1aaaaaaa` "starts a *write* cycle". -/
def execAddrWr (a : Addr) (s : State) : Host.Outcome State Fault Refusal :=
  if s.phase = .awaitingAddress then
    .next (emit (addressEvent .write a s) (writeAddress .write a (recordKind .dataExchange s)))
  else execXfer (some (addressByte .write a)) none s

end Sys2Proof.Machine
end

