-- ==== Sys2Proof/Machine/DataPhase.lean ====
section
/-! DEFINITION. The rows of the data phase (42_data_phase.md), each under the `when` of its row and, in a state
that is not the row's, with the meaning of the umbrella `XFER` (log 8). -/

namespace Sys2Proof.Machine

/-- The state is in the data phase of a cycle of direction `d`, in full decode: the `when` of four rows. -/
def State.inCycle (d : Direction) (s : State) : Bool :=
  decide (s.phase = .inData) && decide (s.cfg.verbosity = .full) && decide (s.dir = d)

/-- `XFER.W` (R81): a data byte of a write cycle. -/
def execXferW (d : Byte) (p2c : Option Byte) (s : State) : Host.Outcome State Fault Refusal :=
  if s.inCycle .write then
    .next (autoIncrement (emit (dataEvent .write d s) (recordKind .dataExchange s)))
  else execXfer (some d) p2c s

/-- `XFER.W.DROP` (R83): the data byte of a write cycle is absent; "cur_addr is NOT incremented". -/
def execXferWDrop (p2c : Option Byte) (s : State) : Host.Outcome State Fault Refusal :=
  if s.inCycle .write then
    .next (dropEvent .dataByteAbsent (recordKind .dataExchange s))
  else execXfer none p2c s

/-- `XFER.R` (R82): a data byte of a read cycle. -/
def execXferR (d : Byte) (c2p : Option Byte) (s : State) : Host.Outcome State Fault Refusal :=
  if s.inCycle .read then
    .next (autoIncrement (emit (dataEvent .read d s) (recordKind .dataExchange s)))
  else execXfer c2p (some d) s

/-- `XFER.R.DROP` (R84): the data byte of a read cycle is absent; "cur_addr is NOT incremented". -/
def execXferRDrop (c2p : Option Byte) (s : State) : Host.Outcome State Fault Refusal :=
  if s.inCycle .read then
    .next (dropEvent .dataByteAbsent (recordKind .dataExchange s))
  else execXfer c2p none s

/-- `XFER.AO` (R91): under `address_only` a data-phase exchange "writes `phase` (as every event does) and then
does nothing more". -/
def execXferAO (c2p p2c : Option Byte) (s : State) : Host.Outcome State Fault Refusal :=
  if s.phase = .inData ∧ s.cfg.verbosity = .addressOnly then
    .next (noOutput (recordKind .dataExchange s))
  else execXfer c2p p2c s

end Sys2Proof.Machine
end

