-- ==== Sys2Proof/Machine/Dispatch.lean ====
section
/-! DEFINITION. One arm per row of the opcode table. -/

namespace Sys2Proof.Machine

def exec (i : Instr) (s : State) : Host.Outcome State Fault Refusal :=
  match i with
  | .sel => Sys2Proof.Machine.execSel s
  | .othK0 => Sys2Proof.Machine.execOthK0 s
  | .othK3 => Sys2Proof.Machine.execOthK3 s
  | .xfer c2p p2c => Sys2Proof.Machine.execXfer c2p p2c s
  | .xferA w a p2c => Sys2Proof.Machine.execXferA w a p2c s
  | .xferADrop p2c => Sys2Proof.Machine.execXferADrop p2c s
  | .xferW d p2c => Sys2Proof.Machine.execXferW d p2c s
  | .xferWDrop p2c => Sys2Proof.Machine.execXferWDrop p2c s
  | .xferR d c2p => Sys2Proof.Machine.execXferR d c2p s
  | .xferRDrop c2p => Sys2Proof.Machine.execXferRDrop c2p s
  | .xferAO c2p p2c => Sys2Proof.Machine.execXferAO c2p p2c s
  | .addrRd a => Sys2Proof.Machine.execAddrRd a s
  | .addrWr a => Sys2Proof.Machine.execAddrWr a s

end Sys2Proof.Machine
end

