-- ==== Sys2Proof/Machine/Step.lean ====
section
/-! DEFINITION. One clock period (30_encoding.md rules R43, R61; 70_reset_and_hazards.md rules R126, R128): the
next period of the feed is put on the input ports, `rst` has priority over `ev_valid`, and an event is decoded
and run. -/

namespace Sys2Proof.Machine

/-- What a presented period makes the block do. -/
def runPeriod (p : Period) (s : State) : Host.Outcome State Fault Refusal :=
  if p.rst then .next (takeReset s)
  else if p.evValid then exec (fetchInstr p) s
  else .next (idlePeriod s)

/-- One step. Once the front-end has stopped delivering, every period is idle (R138). -/
def step (s : State) : Host.Outcome State Fault Refusal :=
  match s.feed with
  | [] => .next (idlePeriod s)
  | p :: rest => runPeriod p (presentPeriod p rest s)

/-- The state with an instruction's bits where the next step fetches. -/
def State.withFetchWord (s : State) (nbits w : Nat) : State := placeTableWord nbits w s

end Sys2Proof.Machine
end

