-- ==== Sys2Proof/Machine/Render.lean ====
section
/-! DEFINITION. The Register Table lookup, the output ports, and the strings of an output event
(43_names_and_display.md; 30_encoding.md rule R53). None of it is read by the step (R110). -/

namespace Sys2Proof

/-- The entry of the Register Table at an address; `none` where the location holds nothing (R28). -/
def NameTable.entry : NameTable → Addr → Option String
  | [], _ => none
  | (k, n) :: rest, a => if k = a.toNat then some n else NameTable.entry rest a

/-- `out_cat`: `0b00` = address, `0b01` = read, `0b10` = write (R53). -/
def Category.bits : Category → BitVec 2
  | .address => 0b00
  | .read => 0b01
  | .write => 0b10

end Sys2Proof

namespace Sys2Proof.Machine

/-! ## The Register Table (R28, R94, R95) -/

/-- `nameOf` (R94): the entry, or the sentinel where the table has none. Total on every 7-bit address. -/
def nameOf (c : Config) (a : Addr) : String :=
  match NameTable.entry c.nameTable a with
  | some n => n
  | none => c.sentinel

/-! ## Fixed strings (R101, R102, R106) -/

/-- The category string (R101). -/
def categoryString : Category → String
  | .address => "address"
  | .read => "read"
  | .write => "write"

/-- The direction string, "capitalised as in the source's record" (R101). -/
def directionString : Direction → String
  | .read => "Read"
  | .write => "Write"

/-- One upper-case hexadecimal digit. -/
def hexDigit (n : Nat) : Char := "0123456789ABCDEF".toList.getD n '0'

/-- `HEX2(v)`: "two uppercase hex digits", most significant first, a leading `0` kept (R102). -/
def hex2 (v : Byte) : String := String.ofList [hexDigit (v.toNat / 16), hexDigit (v.toNat % 16)]

/-- The place of a byte among those where `CHAR_OF` is OPEN: `0x00` to `0x1F`, then `0x7F` to `0xFF`. -/
def openIndex (d : Byte) : Option (Fin 161) :=
  if h : d.toNat < 0x20 then some ⟨d.toNat, by omega⟩
  else if d.toNat ≤ 0x7E then none
  else some ⟨d.toNat - 0x5F, by omega⟩

/-- The byte at a place among those where `CHAR_OF` is OPEN. -/
def openByte (k : Fin 161) : Byte := BitVec.ofNat 8 (if k.val < 0x20 then k.val else k.val + 0x5F)

/-- `CHAR_OF` (R106): the ASCII character on `0x20` to `0x7E` (log 10), the descriptor's string elsewhere. -/
def charOf (c : Config) (d : Byte) : String :=
  match openIndex d with
  | some k => c.openChars.get k
  | none => String.ofList [Char.ofNat d.toNat]

/-- The descriptor with `CHAR_OF` bound to a function, wherever R106 leaves it OPEN. -/
def bindCharOf (f : Byte → String) (c : Config) : Config :=
  { c with openChars := Vector.ofFn fun k => f (openByte k) }

/-! ## The rendering (R103 to R108) -/

/-- The payload of the source's output event (R52). -/
structure Payload where
  registerName : String
  direction    : String
  displayValue : Option String
  deriving DecidableEq, Repr

/-- The source's output event (R52). -/
structure Rendered where
  category  : String
  payload   : Payload
  startTime : Nat
  endTime   : Nat
  deriving DecidableEq, Repr

/-- The display value of an address event: absent in the plain style, the tag `reg_0xNN` in the annotated one
(R103, R104, R105). -/
def displayAddress (st : Style) (a : Addr) : Option String :=
  match st with
  | .plain => none
  | .annotated => some ("reg_0x" ++ hex2 (a.setWidth 8))

/-- The display value of a read or write event (R103, R104). -/
def displayData (c : Config) (w : Direction) (d : Byte) : Option String :=
  match c.style with
  | .plain => some ("0x" ++ hex2 d)
  | .annotated => some (directionString w ++ "-> 0x" ++ hex2 d ++ " = ASCII " ++ charOf c d)

/-- `display(r)` (R108). A read or write record without a byte is none the rules emit (R54); it shows nothing. -/
def display (c : Config) (r : OutEvent) : Option String :=
  match r.cat, r.data with
  | .address, _ => displayAddress c.style r.addr
  | .read, some d => displayData c r.dir d
  | .write, some d => displayData c r.dir d
  | .read, none => none
  | .write, none => none

/-- `render(r)` (R108). -/
def render (c : Config) (r : OutEvent) : Rendered where
  category := categoryString r.cat
  payload :=
    { registerName := nameOf c r.addr
      direction := directionString r.dir
      displayValue := display c r }
  startTime := r.tStart
  endTime := r.tEnd

/-! ## The output ports (R53) -/

/-- The output ports of a period that produces an event (R53). -/
def portsOf (r : OutEvent) : OutPorts where
  outCat := r.cat.bits
  outAddr := r.addr
  outDir := r.dir.bit
  outDataValid := BitVec.ofBool r.data.isSome
  outData := r.data
  outTStart := r.tStart
  outTEnd := r.tEnd

/-- `out_valid` of the period last run (R53). -/
def State.outValid (s : State) : Bool := s.out.isSome

/-- The output ports of the period last run; where `out_valid = 0` they "carry no meaning" (R53, U10). -/
def State.outPorts (s : State) : Option OutPorts := s.out.map portsOf

end Sys2Proof.Machine
end

