-- ==== Sys2Proof/Safety.lean ====
section
/-! DEFINITION. The terms in which claims about runs are stated: the one condition that the spec leaves
undefined, the invariant of the state, the spec's named premises about the event source (92_eei_decisions.md), the outputs of
a run, the addresses of a burst, and two instances run side by side. -/

namespace Sys2Proof

open Machine

/-! ## The input periods -/

/-- The period delivers an event (R43, R128). -/
def Period.isEvent (p : Period) : Bool := !p.rst && p.evValid

/-- The period delivers an event of a given kind. -/
def Period.isKind (k : Kind) (p : Period) : Bool := p.isEvent && decide (kindOfBits p.kind = k)

/-- The byte the front-end delivers for a direction (R80). -/
def Period.slotByte (w : Direction) (p : Period) : Option Byte :=
  selectByte w (optByte p.c2pValid p.c2p) (optByte p.p2cValid p.p2c)

/-- A data-exchange event that carries the byte a cycle of direction `w` needs. -/
def Period.isSlot (w : Direction) (p : Period) : Bool :=
  p.isKind .dataExchange && (p.slotByte w).isSome

/-- A data-exchange event that carries its controller-to-peripheral byte. -/
def Period.isAddressSlot (p : Period) : Bool := p.isKind .dataExchange && p.c2pValid

/-- No period of the feed applies `rst`. -/
def noReset (feed : List Period) : Bool := feed.all fun p => !p.rst

/-- The events begin as R130 asks, a prefix of such a beginning included: `SEL`, then directly an exchange with
its controller-to-peripheral byte. Idle periods may stand anywhere. -/
def opensProperly (feed : List Period) : Bool :=
  match feed.filter Period.isEvent with
  | [] => true
  | [p] => p.isKind .selectAsserted
  | p :: q :: _ => p.isKind .selectAsserted && q.isAddressSlot

end Sys2Proof

namespace Sys2Proof.Machine

/-! ## The one undefined condition -/

/-- R124: the next period delivers a data-exchange event in the data phase, in full decode, and no address byte
has been accepted since reset. The step runs on free values (log 1). -/
def State.undefinedNext (s : State) : Bool :=
  match s.feed with
  | [] => false
  | p :: _ =>
    p.isKind .dataExchange && decide (s.phase = .inData) && decide (s.cfg.verbosity = .full) && !s.written

/-- The period last run met R124: it read `dir` and `cur_addr` before an address byte wrote them, so that its output,
or its drop, is one the spec gives no meaning to. -/
def State.unfounded (s : State) : Bool :=
  !s.written && (s.out.isSome || decide (s.drop = some .dataByteAbsent))

/-! ## The invariant -/

/-- What an output event says of the state its step left: the record is one the rules emit (R54), its timestamps
are the period's (R109), the cycle is in its data phase in the event's direction, and `cur_addr` is the address
of an address event or follows that of a data event (R85, R86). -/
def State.outputExplained (s : State) (r : OutEvent) : Prop :=
  r.wf = true ∧ r.tStart = s.tStart ∧ r.tEnd = s.tEnd ∧ s.drop = none ∧
  s.phase = .inData ∧ r.dir = s.dir ∧
  (r.cat = .address → s.written = true ∧ s.curAddr = r.addr) ∧
  (r.cat ≠ .address → s.cfg.verbosity = .full ∧ s.curAddr = nextAddr s.cfg.fifoAddr r.addr)

/-- The invariant: legal parameters, timestamps that fit their ports, an output that is explained by the state,
and, while `written` is false, the direction that the reset left. -/
structure State.Inv (s : State) : Prop where
  cfgWf : s.cfg.wf = true
  feedWf : s.feed.all (Period.wf s.cfg) = true
  stampsFit : s.tStart < 2 ^ s.cfg.tw ∧ s.tEnd < 2 ^ s.cfg.tw
  output : ∀ r, s.out = some r → s.outputExplained r
  unwritten : s.written = false → s.dir = Config.resetDir s.resets

/-! ## Runs -/

/-- The output events of the next `k` steps, in order; a run that stops gives those up to its stop. -/
def outputs : Nat → State → List OutEvent
  | 0, _ => []
  | k + 1, s =>
    match step s with
    | .next t => t.out.toList ++ outputs k t
    | .fault _ => []
    | .refused _ => []

/-- The address of data byte number `k` of a burst that starts at `a` (R85, R86, R87). -/
def burstAddr (fifo a : Addr) : Nat → Addr
  | 0 => a
  | k + 1 => nextAddr fifo (burstAddr fifo a k)

/-- The data events of a burst: slot after slot, each under its own address and with its own timestamps. -/
def burstEvents (fifo : Addr) (w : Direction) : Addr → List Period → List OutEvent
  | _, [] => []
  | a, p :: ps =>
    { cat := dataCategory w, addr := a, dir := w, data := p.slotByte w, tStart := p.tStart, tEnd := p.tEnd }
      :: burstEvents fifo w (nextAddr fifo a) ps

/-! ## Comparing runs -/

/-- An outcome with its next state changed. -/
def mapNext (f : State → State) : Host.Outcome State Fault Refusal → Host.Outcome State Fault Refusal
  | .next s => .next (f s)
  | .fault r => .fault r
  | .refused r => .refused r

/-- The state with other contents in the registers that no address byte has written (R25). -/
def State.refill (a : Addr) (w : Direction) (s : State) : State :=
  if s.written then s else { s with curAddr := a, dir := w }

/-- The state with other timestamps in hand. -/
def State.restamp (t0 t1 : Nat) (s : State) : State :=
  { s with tStart := t0, tEnd := t1, out := s.out.map fun r => { r with tStart := t0, tEnd := t1 } }

/-- The state bound to other display parameters: everything but `FIFO_ADDR` and `VERBOSITY`. -/
def State.rebindDisplay (st : Style) (names : NameTable) (sentinel : String) (chars : Vector String 161) (tw : Nat)
    (s : State) : State :=
  { s with cfg := { s.cfg with style := st, nameTable := names, sentinel := sentinel, openChars := chars, tw := tw } }

/-- The state with another byte in its output, where its output carries one. -/
def State.replaceData (d : Byte) (s : State) : State :=
  { s with out := s.out.map fun r => { r with data := r.data.map fun _ => d } }

/-- One more step of an instance that has not stopped. -/
def stepOn : Host.Outcome State Fault Refusal → Host.Outcome State Fault Refusal
  | .next s => step s
  | .fault r => .fault r
  | .refused r => .refused r

/-- An instance run alone for `k` steps. -/
def runAlone : Nat → Host.Outcome State Fault Refusal → Host.Outcome State Fault Refusal
  | 0, x => x
  | k + 1, x => runAlone k (stepOn x)

/-- Two instances run in the order a schedule gives: `true` steps the first, `false` the second (R40). -/
def interleave : List Bool → Host.Outcome State Fault Refusal × Host.Outcome State Fault Refusal →
    Host.Outcome State Fault Refusal × Host.Outcome State Fault Refusal
  | [], xy => xy
  | true :: sched, (x, y) => interleave sched (stepOn x, y)
  | false :: sched, (x, y) => interleave sched (x, stepOn y)

/-! ## Premises about the event source (92_eei_decisions.md) -/

/-- `NoOtherKinds`: "the stream contains only SEL and XFER events". -/
def noOtherKinds (feed : List Period) : Bool :=
  feed.all fun p => !p.isEvent || p.isKind .selectAsserted || p.isKind .dataExchange

/-- `BytesPresent`: "every XFER has both bytes present". -/
def bytesPresent (feed : List Period) : Bool :=
  feed.all fun p => !p.isKind .dataExchange || (p.c2pValid && p.p2cValid)

/-- `TableTotal`: "`NAME_TABLE` has an entry at every address". -/
def tableTotal (c : Config) : Prop := ∀ a : Addr, (NameTable.entry c.nameTable a).isSome = true

end Sys2Proof.Machine
end

