-- ==== Sys2Proof/Certificates/Slice0/Obligations.lean ====
section
/-! DEFINITION. The statements for the provers. Each docstring names the rule of spec/ it formalises. A next
state is written as the state before with the fields the rule writes, so that such an equation is also the
instruction's frame: every field it does not name is unchanged. -/

open Sys2Proof Sys2Proof.Machine

/-! ## Encoding -/

/-- R45: the fields of the input ports come back from the packed word, and bits in ignored fields do not
reach the decoder. -/
def Obligations.WordCarriesPortFields : Prop :=
  (∀ p : Period, wordKind p.word = p.kind ∧ wordC2p p.word = optByte p.c2pValid p.c2p ∧
    wordP2c p.word = optByte p.p2cValid p.p2c) ∧
  (∀ w w' : EventWord, wordKind w = wordKind w' →
    (wordKind w = 0b10 → wordC2p w = wordC2p w' ∧ wordP2c w = wordP2c w') → decodeWord w = decodeWord w')

/-- R45: the example words. -/
def Obligations.SampleWordsDecode : Prop :=
  decodeWord 0x40000 = .sel ∧ decodeWord 0x00000 = .othK0 ∧ decodeWord 0xC0000 = .othK3 ∧
  decodeWord 0xA8000 = .xfer (some 0x80) none ∧ decodeWord 0xB8100 = .xfer (some 0x81) (some 0x00) ∧
  decodeWord 0x90024 = .xfer none (some 0x24) ∧ decodeWord 0x80000 = .xfer none none

/-- R46 (the spec's decision D4): the class of every word is told by its two kind bits, all four codes are legal, and "The two `OTH`
codes behave identically". -/
def Obligations.KindCodesSelectClass : Prop :=
  (∀ w : EventWord, (w &&& 0xC0000 = 0x40000 ↔ decodeWord w = .sel) ∧
    (w &&& 0xC0000 = 0x00000 ↔ decodeWord w = .othK0) ∧
    (w &&& 0xC0000 = 0xC0000 ↔ decodeWord w = .othK3) ∧
    (w &&& 0xC0000 = 0x80000 ↔ decodeWord w = .xfer (wordC2p w) (wordP2c w))) ∧
  (∀ s : State, exec .othK0 s = exec .othK3 s)

/-- R50: the operands assembled from an address byte, with the rule's three worked values, and what an accepted
address byte writes; the byte is what its two fields make (R49). -/
def Obligations.AddressByteOperands : Prop :=
  (∀ b : Byte, (byteDir b = .write ↔ 128 ≤ b.toNat) ∧ (byteAddr b).toNat = b.toNat % 128 ∧
    (byteAddr b).setWidth 8 = b &&& 0x7F ∧ addressByte (byteDir b) (byteAddr b) = b) ∧
  byteDir 0xFF = .write ∧ byteAddr 0xFF = 0x7F ∧ byteDir 0x80 = .write ∧ byteAddr 0x80 = 0x00 ∧
  byteDir 0x01 = .read ∧ byteAddr 0x01 = 0x01 ∧
  (∀ (s : State) (b : Byte) (p2c : Option Byte), s.phase = .awaitingAddress →
    ∃ t, exec (.xfer (some b) p2c) s = .next t ∧ t.dir = byteDir b ∧ t.curAddr = byteAddr b)

/-- R55, R60: in every state exactly one of the seven rows applies to an `XFER` word, and the decoder in that state
gives a form of it. -/
def Obligations.ExactlyOneRowApplies : Prop :=
  ∀ (phase : Phase) (v : Verbosity) (d : Direction) (w : EventWord), w &&& 0xC0000 = 0x80000 →
    ∃ row : XferRow,
      (w &&& row.mask = row.pattern ∧ row.holds phase v d = true) ∧
      (∀ other : XferRow, w &&& other.mask = other.pattern → other.holds phase v d = true → other = row) ∧
      (decodeIn phase v d w).xferRow = some row

/-- R45, R49, R55: decoding an instruction's own bits gives it back; the refinements of `XFER` come back in
every state that their row's `when` names, and as the umbrella without the state. -/
def Obligations.EncodeThenDecode : Prop :=
  (∀ i : Instr, i.wf = true → decode (encode i) = i.umbrella) ∧
  (∀ (i : Instr) (row : XferRow) (phase : Phase) (v : Verbosity) (d : Direction),
    i.wf = true → i.xferRow = some row → row.holds phase v d = true →
    decodeIn phase v d i.eventWord = i)

/-- R45: encoding what a word decodes to gives the word's canonical form; an address byte comes back whole. -/
def Obligations.DecodeThenEncodeIsCanonical : Prop :=
  (∀ w : EventWord, encode (decodeWord w) = .ev
    (if wordKind w = 0b10 then canonicalWord 0b10 (wordC2p w) (wordP2c w)
      else canonicalWord (wordKind w) none none)) ∧
  (∀ b : Byte, encode (decodeByte b) = .ab b)

/-! ## Reset, idle periods, the step -/

/-- R127 (the spec's decisions D8, D9): the reset state. `cur_addr` and `dir` "hold no specified value": their contents
are the free values of log 1, and no address byte has been accepted; which parameters `State.reset` binds is the
model's choice (log 3). -/
def Obligations.ResetStateHoldsFreeValues : Prop :=
  (∀ (c : Config) (n : Nat), (State.resetWith c n).phase = .inData ∧ (State.resetWith c n).written = false ∧
    (State.resetWith c n).curAddr = Config.resetAddr n ∧ (State.resetWith c n).dir = Config.resetDir n ∧
    (State.resetWith c n).out = none ∧ (State.resetWith c n).cfg = c) ∧
  (∃ c : Config, State.reset = State.resetWith c 0)

/-- R126, R128 (the spec's decision D8): a period with `rst = 1` takes no step, whatever the state and whatever event is presented in it,
and ends in the reset state with the parameters as bound, at the free values of one reset more (log 1). -/
def Obligations.ResetPeriodIgnoresEvent : Prop :=
  ∀ (s : State) (p : Period) (rest : List Period), s.feed = p :: rest → p.rst = true →
    step s = .next { State.resetWith s.cfg (s.resets + 1) with
      feed := rest, tStart := p.tStart, tEnd := p.tEnd }

/-- R61 (the spec's decision D19), R138: a period without an event changes no state and has no output; once the front-end has stopped
delivering, the state keeps its last values for ever and nothing more is emitted. -/
def Obligations.NoEventNoChange : Prop :=
  (∀ (s : State) (p : Period) (rest : List Period), s.feed = p :: rest → p.rst = false → p.evValid = false →
    step s = .next { s with feed := rest, tStart := p.tStart, tEnd := p.tEnd, out := none, drop := none }) ∧
  (∀ (s : State) (k : Nat), s.feed = [] →
    runAlone (k + 1) (.next s) = .next { s with out := none, drop := none } ∧ outputs k s = [])

/-- R43, R36: a period that delivers an event runs the instruction its word decodes to, with the event's
timestamps in hand, and nothing else. -/
def Obligations.StepRunsDecodedEvent : Prop :=
  ∀ (s : State) (p : Period) (rest : List Period) (i : Instr), s.feed = p :: rest → p.rst = false →
    p.evValid = true → decodeWord p.word = i → i.wf = true →
    step s = exec i { s with feed := rest, tStart := p.tStart, tEnd := p.tEnd }

/-- The instruction bits that the host places are what the next step runs; an address byte runs in the phase
that reads one. The model's choice (logs 4, 9). -/
def Obligations.PlacedWordRunsNext : Prop :=
  ∀ (s : State) (nbits w : Nat) (i : Instr), decodeTableWord nbits w = some i →
    step (s.withFetchWord nbits w) =
      exec i { s with phase := if nbits ≤ 8 then .awaitingAddress else s.phase }

/-! ## Results and frames, row by row -/

/-- R66: `SEL`. -/
def Obligations.SelSetsAwaitingAddress : Prop :=
  (∀ w : EventWord, w &&& 0xC0000 = 0x40000 → decodeWord w = .sel) ∧
  (∀ s : State, exec .sel s = .next { s with phase := .awaitingAddress, out := none, drop := none })

/-- R67 (the spec's decision D4): `OTH`, both codes. -/
def Obligations.OthSetsInData : Prop :=
  (∀ w : EventWord, (w &&& 0xC0000 = 0x00000 → decodeWord w = .othK0) ∧
    (w &&& 0xC0000 = 0xC0000 → decodeWord w = .othK3)) ∧
  (∀ s : State, exec .othK0 s = .next { s with phase := .inData, out := none, drop := none } ∧
    exec .othK3 s = .next { s with phase := .inData, out := none, drop := none })

/-- R72: `XFER.A`, as a row and as the umbrella event; "the only step that writes `dir`", and besides the
auto-increment the only one that writes `cur_addr`. -/
def Obligations.AddressByteAccepted : Prop :=
  (∀ (v : Verbosity) (d : Direction) (w : EventWord), w &&& 0xE0000 = 0xA0000 →
    decodeIn .awaitingAddress v d w =
      .xferA (byteDir (w.extractLsb' 8 8)) (byteAddr (w.extractLsb' 8 8)) (wordP2c w)) ∧
  (∀ (s : State) (d : Direction) (a : Addr) (p2c : Option Byte), s.phase = .awaitingAddress →
    exec (.xferA d a p2c) s = .next { s with
      phase := .inData, dir := d, curAddr := a, written := true, drop := none
      out := some { cat := .address, addr := a, dir := d, data := none, tStart := s.tStart, tEnd := s.tEnd } }) ∧
  (∀ (s : State) (b : Byte) (p2c : Option Byte), s.phase = .awaitingAddress →
    exec (.xfer (some b) p2c) s = exec (.xferA (byteDir b) (byteAddr b) p2c) s) ∧
  (∀ (i : Instr) (s t : State), exec i s = .next t →
    ¬ (s.phase = .awaitingAddress ∧ i.kind = .dataExchange ∧ i.c2p.isSome = true) →
    t.dir = s.dir ∧ t.written = s.written ∧ t.resets = s.resets ∧
      (t.curAddr = s.curAddr ∨ t.curAddr = nextAddr s.cfg.fifoAddr s.curAddr))

/-- R73: `ADDR.RD`. -/
def Obligations.AddressByteStartsRead : Prop :=
  (∀ b : Byte, b.getLsbD 7 = false →
    decodeByte b = .addrRd (byteAddr b) ∧ (byteAddr b).toNat = b.toNat ∧
    ∀ (s : State) (p2c : Option Byte), s.phase = .awaitingAddress →
      exec (.xfer (some b) p2c) s = exec (.addrRd (byteAddr b)) s) ∧
  (∀ (s : State) (a : Addr), s.phase = .awaitingAddress →
    exec (.addrRd a) s = .next { s with
      phase := .inData, dir := .read, curAddr := a, written := true, drop := none
      out := some { cat := .address, addr := a, dir := .read, data := none, tStart := s.tStart, tEnd := s.tEnd } }) ∧
  (∀ c2p p2c : Option Byte, selectByte .read c2p p2c = p2c)

/-- R74: `ADDR.WR`. -/
def Obligations.AddressByteStartsWrite : Prop :=
  (∀ b : Byte, b.getLsbD 7 = true →
    decodeByte b = .addrWr (byteAddr b) ∧ (byteAddr b).toNat = b.toNat - 0x80 ∧
    ∀ (s : State) (p2c : Option Byte), s.phase = .awaitingAddress →
      exec (.xfer (some b) p2c) s = exec (.addrWr (byteAddr b)) s) ∧
  (∀ (s : State) (a : Addr), s.phase = .awaitingAddress →
    exec (.addrWr a) s = .next { s with
      phase := .inData, dir := .write, curAddr := a, written := true, drop := none
      out := some { cat := .address, addr := a, dir := .write, data := none, tStart := s.tStart, tEnd := s.tEnd } }) ∧
  (∀ c2p p2c : Option Byte, selectByte .write c2p p2c = c2p)

/-- R75: `XFER.A.DROP`, as a row and as the umbrella event. -/
def Obligations.AbsentAddressByteDropped : Prop :=
  (∀ (v : Verbosity) (d : Direction) (w : EventWord), w &&& 0xE0000 = 0x80000 →
    decodeIn .awaitingAddress v d w = .xferADrop (wordP2c w)) ∧
  (∀ (s : State) (p2c : Option Byte), s.phase = .awaitingAddress →
    exec (.xferADrop p2c) s = .next { s with phase := .inData, out := none, drop := some .addrByteAbsent } ∧
    exec (.xfer none p2c) s = .next { s with phase := .inData, out := none, drop := some .addrByteAbsent })

/-- R76, R90: one byte of a slot is read and the other has no effect: in the address phase `c2p` is read, and it
alone decides whether the event is accepted; in the data phase the byte that `dir` selects. -/
def Obligations.UnreadByteHasNoEffect : Prop :=
  (∀ (s : State) (c2p p2c p2c' : Option Byte), s.phase = .awaitingAddress →
    exec (.xfer c2p p2c) s = exec (.xfer c2p p2c') s ∧
    ∃ t, exec (.xfer c2p p2c) s = .next t ∧ (t.out.isSome = true ↔ c2p.isSome = true)) ∧
  (∀ (s : State) (c2p c2p' p2c p2c' : Option Byte), s.phase = .inData →
    (s.dir = .write → exec (.xfer c2p p2c) s = exec (.xfer c2p p2c') s) ∧
    (s.dir = .read → exec (.xfer c2p p2c) s = exec (.xfer c2p' p2c) s))

/-- R79: the address phase is the same in both modes, and a cycle of only an address byte emits exactly one
event, an address event, in either. -/
def Obligations.VerbosityIgnoredInAddressPhase : Prop :=
  (∀ (s : State) (v : Verbosity) (c2p p2c : Option Byte), s.phase = .awaitingAddress →
    ∃ t, exec (.xfer c2p p2c) s = .next t ∧
      exec (.xfer c2p p2c) { s with cfg := { s.cfg with verbosity := v } } =
        .next { t with cfg := { t.cfg with verbosity := v } } ∧
      ((∃ r, t.out = some r ∧ r.cat = .address) ↔ c2p.isSome = true)) ∧
  (∀ (s : State) (sel first : Period) (rest : List Period), s.feed = sel :: first :: rest →
    sel.isKind .selectAsserted = true → first.isAddressSlot = true →
    ∃ r, outputs 2 s = [r] ∧ r.cat = .address)

/-- R81: `XFER.W`, as a row and as the umbrella event. -/
def Obligations.WriteDataByteReported : Prop :=
  (∀ w : EventWord, w &&& 0xE0000 = 0xA0000 →
    decodeIn .inData .full .write w = .xferW (w.extractLsb' 8 8) (wordP2c w)) ∧
  (∀ (s : State) (d : Byte) (p2c : Option Byte), s.phase = .inData → s.cfg.verbosity = .full →
    s.dir = .write →
    exec (.xfer (some d) p2c) s = exec (.xferW d p2c) s ∧
    exec (.xferW d p2c) s = .next { s with
      curAddr := if s.curAddr = s.cfg.fifoAddr then s.curAddr else BitVec.ofNat 7 ((s.curAddr.toNat + 1) % 128)
      drop := none
      out := some { cat := .write, addr := s.curAddr, dir := .write, data := some d,
                    tStart := s.tStart, tEnd := s.tEnd } })

/-- R82: `XFER.R`, as a row and as the umbrella event. -/
def Obligations.ReadDataByteReported : Prop :=
  (∀ w : EventWord, w &&& 0xD0000 = 0x90000 →
    decodeIn .inData .full .read w = .xferR (w.extractLsb' 0 8) (wordC2p w)) ∧
  (∀ (s : State) (d : Byte) (c2p : Option Byte), s.phase = .inData → s.cfg.verbosity = .full →
    s.dir = .read →
    exec (.xfer c2p (some d)) s = exec (.xferR d c2p) s ∧
    exec (.xferR d c2p) s = .next { s with
      curAddr := if s.curAddr = s.cfg.fifoAddr then s.curAddr else BitVec.ofNat 7 ((s.curAddr.toNat + 1) % 128)
      drop := none
      out := some { cat := .read, addr := s.curAddr, dir := .read, data := some d,
                    tStart := s.tStart, tEnd := s.tEnd } })

/-- R83: `XFER.W.DROP`, as a row and as the umbrella event. -/
def Obligations.AbsentWriteByteDropped : Prop :=
  (∀ w : EventWord, w &&& 0xE0000 = 0x80000 →
    decodeIn .inData .full .write w = .xferWDrop (wordP2c w)) ∧
  (∀ (s : State) (p2c : Option Byte), s.phase = .inData → s.cfg.verbosity = .full →
    s.dir = .write →
    exec (.xferWDrop p2c) s = .next { s with out := none, drop := some .dataByteAbsent } ∧
    exec (.xfer none p2c) s = .next { s with out := none, drop := some .dataByteAbsent })

/-- R84: `XFER.R.DROP`, as a row and as the umbrella event. -/
def Obligations.AbsentReadByteDropped : Prop :=
  (∀ w : EventWord, w &&& 0xD0000 = 0x80000 →
    decodeIn .inData .full .read w = .xferRDrop (wordC2p w)) ∧
  (∀ (s : State) (c2p : Option Byte), s.phase = .inData → s.cfg.verbosity = .full →
    s.dir = .read →
    exec (.xferRDrop c2p) s = .next { s with out := none, drop := some .dataByteAbsent } ∧
    exec (.xfer c2p none) s = .next { s with out := none, drop := some .dataByteAbsent })

/-- R91 (the spec's decision D10): `XFER.AO`, as a row and as the umbrella event, in every state of the data
phase, never-written registers included. -/
def Obligations.AddressOnlyDataPhaseIsQuiet : Prop :=
  (∀ (d : Direction) (w : EventWord), w &&& 0xC0000 = 0x80000 →
    decodeIn .inData .addressOnly d w = .xferAO (wordC2p w) (wordP2c w)) ∧
  (∀ (s : State) (c2p p2c : Option Byte), s.phase = .inData → s.cfg.verbosity = .addressOnly →
    exec (.xferAO c2p p2c) s = .next { s with out := none, drop := none } ∧
    exec (.xfer c2p p2c) s = .next { s with out := none, drop := none })

/-- R62 against R72 to R91: every row of the table that is a form of a data-exchange event means, in every
state, what the whole step means for that event. -/
def Obligations.RowsMeanTheirEvent : Prop :=
  ∀ (i : Instr) (s : State), i.kind = .dataExchange → exec i s = exec (.xfer i.c2p i.p2c) s

/-- R55: in every state the umbrella event runs the row selected by `phase`, `VERBOSITY`, the held `dir` and one
valid bit. -/
def Obligations.UmbrellaRunsSelectedRow : Prop :=
  ∀ (s : State) (c2p p2c : Option Byte),
    exec (.xfer c2p p2c) s = exec (rowOf s.phase s.cfg.verbosity s.dir c2p p2c) s ∧
    (rowOf s.phase s.cfg.verbosity s.dir c2p p2c).c2p = c2p ∧
    (rowOf s.phase s.cfg.verbosity s.dir c2p p2c).p2c = p2c

/-- R62, R56: the step is total: every instruction completes in every state, on the free values of log 1 too. -/
def Obligations.EveryEventCompletes : Prop :=
  ∀ (i : Instr) (s : State),
    ∃ t, exec i s = .next t ∧ t.phase = phaseAfter i.kind ∧
      t.cfg = s.cfg ∧ t.feed = s.feed ∧ t.tStart = s.tStart ∧ t.tEnd = s.tEnd

/-! ## The one error class and the one undefined condition -/

/-- R124 (the spec's decision D9), R125: the step that reads `dir` and `cur_addr` before an address byte wrote them is
told from every other: it is exactly the data-phase exchange in full decode with `written` false. The spec advises a
fault of the model there; the model runs the step on free values (log 1). -/
def Obligations.UnwrittenReadIsTold : Prop :=
  ∀ (i : Instr) (s t : State), exec i s = .next t →
    (t.unfounded = true ↔
      i.kind = .dataExchange ∧ s.phase = .inData ∧ s.cfg.verbosity = .full ∧ s.written = false)

/-- R116 ("The decoder never stops"), R124: every step answers a next state, and the one undefined condition is told
before the step and after it. -/
def Obligations.StepNeverStops : Prop :=
  ∀ s : State, ∃ t, step s = .next t ∧ (t.unfounded = true ↔ s.undefinedNext = true)

/-- R112 (the spec's decision D20; the label is the model's, log 7), R113: the two sites, each with its condition, and what a dropped event leaves: no output, `phase`
written, every other field as it was. -/
def Obligations.DroppedEventLeavesRegisters : Prop :=
  ∀ (i : Instr) (s t : State), exec i s = .next t →
    (t.drop = some .addrByteAbsent ↔
      i.kind = .dataExchange ∧ s.phase = .awaitingAddress ∧ i.c2p = none) ∧
    (t.drop = some .dataByteAbsent ↔
      i.kind = .dataExchange ∧ s.phase = .inData ∧ s.cfg.verbosity = .full ∧
      selectByte s.dir i.c2p i.p2c = none) ∧
    (t.drop ≠ none → t = { s with phase := .inData, out := none, drop := t.drop })

/-- R114, R20: neither the output of an earlier period nor the label of a drop is ever read: a step is the same
whatever they hold. -/
def Obligations.PastOutputIsNeverRead : Prop :=
  ∀ (s : State) (o : Option OutEvent) (d : Option DropSite), step { s with out := o, drop := d } = step s

/-! ## Rules about every instruction -/

/-- R64: `phase` records the kind of every event, accepted or dropped. -/
def Obligations.PhaseRecordsKind : Prop :=
  ∀ (i : Instr) (s t : State), exec i s = .next t →
    t.phase = phaseAfter i.kind ∧ (t.phase = .awaitingAddress ↔ i = .sel)

/-- R65, R71: only data-exchange events can produce output, and an event of another kind is never malformed; the
steps that emit are exactly an accepted address byte and, in full decode, an accepted data byte, and the category
says which; every other step emits nothing, idle periods and the end of a stream included. -/
def Obligations.EmittingStepsAreExactlyAccepted : Prop :=
  (∀ (i : Instr) (s t : State), exec i s = .next t → i.kind ≠ .dataExchange → t.out = none ∧ t.drop = none) ∧
  (∀ (i : Instr) (s t : State), exec i s = .next t → i.kind = .dataExchange →
    (t.out.isSome = true ↔
      (s.phase = .awaitingAddress ∧ i.c2p.isSome = true) ∨
      (s.phase = .inData ∧ s.cfg.verbosity = .full ∧ (selectByte s.dir i.c2p i.p2c).isSome = true)) ∧
    ((∃ r, t.out = some r ∧ r.cat = .address) ↔ s.phase = .awaitingAddress ∧ i.c2p.isSome = true) ∧
    ((∃ r, t.out = some r ∧ r.cat = dataCategory s.dir ∧ r.data = selectByte s.dir i.c2p i.p2c) ↔
      s.phase = .inData ∧ s.cfg.verbosity = .full ∧ (selectByte s.dir i.c2p i.p2c).isSome = true)) ∧
  (∀ (s t : State) (p : Period) (rest : List Period), s.feed = p :: rest → p.isEvent = false →
    step s = .next t → t.out = none) ∧
  (∀ (k : Nat) (s : State), s.feed = [] → outputs k s = [])

/-- R86: what an instruction does to `cur_addr`: an address byte sets it, an accepted data byte advances it by one
modulo 128 except at `FIFO_ADDR`, and nothing else writes it. That an `address_only` exchange does not is R91, the
spec's decision D10 (log 13). -/
def Obligations.CurrentAddressUpdate : Prop :=
  ∀ (i : Instr) (s t : State), exec i s = .next t →
    (i.kind = .dataExchange → s.phase = .awaitingAddress →
      t.curAddr = (i.c2p.map byteAddr).getD s.curAddr) ∧
    (s.phase = .inData → t.out.isSome = true →
      t.curAddr.toNat = if s.curAddr = s.cfg.fifoAddr then s.curAddr.toNat else (s.curAddr.toNat + 1) % 128) ∧
    (t.out = none → t.curAddr = s.curAddr)

/-- R86, R87: the increment, modulo 128, and the FIFO hold. -/
def Obligations.IncrementWrapsAndHolds : Prop :=
  ∀ fifo a : Addr, (nextAddr fifo a).toNat = if a = fifo then a.toNat else (a.toNat + 1) % 128

/-- R23, R39 (the spec's decision D11): no step changes a parameter. -/
def Obligations.ParametersNeverChange : Prop :=
  ∀ (s t : State), step s = .next t → t.cfg = s.cfg

/-- R91 (the spec's decision D10): in `address_only` mode a run emits address events and nothing else. -/
def Obligations.AddressOnlyEmitsOnlyAddresses : Prop :=
  ∀ (k : Nat) (s : State), s.cfg.verbosity = .addressOnly → ∀ r ∈ outputs k s, r.cat = .address

/-- R89: while no `SEL` and no reset intervenes, the data phase goes on, `dir` keeps its value, and every event
emitted has the category and the direction of the cycle. -/
def Obligations.DirectionFixedWithinCycle : Prop :=
  ∀ (k : Nat) (s : State), s.phase = .inData →
    (s.feed.take k).all (fun p => !p.rst && !p.isKind .selectAsserted) = true →
    (∀ r ∈ outputs k s, r.cat = dataCategory s.dir ∧ r.dir = s.dir) ∧
    (∀ t, runAlone k (.next s) = .next t → t.phase = .inData ∧ t.dir = s.dir ∧ t.written = s.written)

/-- R87: at `FIFO_ADDR` no number of events of a cycle moves `cur_addr`, and only an accepted address byte can
move it off. -/
def Obligations.FifoHoldsUntilAddressByte : Prop :=
  (∀ (k : Nat) (s t : State), s.phase = .inData → s.curAddr = s.cfg.fifoAddr →
    (s.feed.take k).all (fun p => !p.rst && !p.isKind .selectAsserted) = true →
    runAlone k (.next s) = .next t → t.curAddr = s.cfg.fifoAddr) ∧
  (∀ (i : Instr) (s t : State), exec i s = .next t → s.curAddr = s.cfg.fifoAddr → t.curAddr ≠ s.cfg.fifoAddr →
    s.phase = .awaitingAddress ∧ i.kind = .dataExchange ∧ i.c2p.isSome = true)

/-! ## Cycles and runs -/

/-- R88, R35: the addresses of a burst in closed form: one more each byte, modulo 128, until `FIFO_ADDR`, then
`FIFO_ADDR` for ever; it is reached after at most 127 increments. -/
def Obligations.BurstAddressClosedForm : Prop :=
  ∀ (fifo a : Addr) (k : Nat),
    burstAddr fifo a k = (if k ≤ (fifo - a).toNat then a + BitVec.ofNat 7 k else fifo) ∧
    (127 ≤ k → burstAddr fifo a k = fifo)

/-- R68, R85, R86, R87, R89: a whole cycle of a `SEL`, an address byte and any number of accepted data bytes, from
any state, emits one address event and then one data event for each byte, in order, each under its own address
and with its own timestamps, and leaves `cur_addr` at the next address. -/
def Obligations.WholeCycleReported : Prop :=
  ∀ (s : State) (sel first : Period) (slots rest : List Period),
    s.feed = sel :: first :: (slots ++ rest) → s.cfg.verbosity = .full →
    sel.isKind .selectAsserted = true → first.isAddressSlot = true →
    (∀ p ∈ slots, p.isSlot (byteDir first.c2p) = true) →
    outputs (2 + slots.length) s =
      { cat := .address, addr := byteAddr first.c2p, dir := byteDir first.c2p, data := none,
        tStart := first.tStart, tEnd := first.tEnd } ::
      burstEvents s.cfg.fifoAddr (byteDir first.c2p) (byteAddr first.c2p) slots ∧
    (∃ t, runAlone (2 + slots.length) (.next s) = .next t ∧ t.phase = .inData ∧ t.feed = rest ∧
      t.dir = byteDir first.c2p ∧ t.curAddr = burstAddr s.cfg.fifoAddr (byteAddr first.c2p) slots.length)

/-- R116: from any state, a `SEL` followed by a present address byte leaves the decoder in the state of a
correctly begun cycle. -/
def Obligations.RecoversAtNextCycle : Prop :=
  ∀ (s : State) (sel first : Period) (rest : List Period), s.feed = sel :: first :: rest →
    sel.isKind .selectAsserted = true → first.isAddressSlot = true →
    runAlone 2 (.next s) = .next { s with
      phase := .inData, dir := byteDir first.c2p, curAddr := byteAddr first.c2p, written := true
      feed := rest, tStart := first.tStart, tEnd := first.tEnd, drop := none
      out := some { cat := .address, addr := byteAddr first.c2p, dir := byteDir first.c2p, data := none,
                    tStart := first.tStart, tEnd := first.tEnd } }

/-- R130, R135: every stream runs on, from any state; and in one that begins as R130 asks, or once an address byte has
been accepted, no step ever reads a register that no address byte has written: "from then on every step is
defined". -/
def Obligations.ProperStreamIsFounded : Prop :=
  ∀ (s : State) (k : Nat), ∃ t, runAlone (k + 1) (.next s) = .next t ∧
    (noReset s.feed = true → (opensProperly s.feed = true ∨ s.written = true) →
      t.unfounded = false ∧ t.undefinedNext = false ∧ (s.written = true → t.written = true))

/-- R133, R134: a lost address byte, or an `OTH` between the assertion and the address byte, makes the following
byte a data byte of the earlier cycle, under its direction and address (before any cycle, under the free values of
log 1). -/
def Obligations.LostAddressByteReportsStaleCycle : Prop :=
  ∀ (s : State) (p q : Period) (rest : List Period) (d : Byte), s.feed = p :: q :: rest →
    s.phase = .awaitingAddress → s.cfg.verbosity = .full →
    ((p.isKind .dataExchange = true ∧ p.c2pValid = false) ∨ p.isKind .other0 = true ∨ p.isKind .other3 = true) →
    q.isKind .dataExchange = true → q.slotByte s.dir = some d →
    ∃ t, runAlone 2 (.next s) = .next t ∧ t.dir = s.dir ∧ t.curAddr = nextAddr s.cfg.fifoAddr s.curAddr ∧
      t.out = some { cat := dataCategory s.dir, addr := s.curAddr, dir := s.dir, data := some d,
                     tStart := q.tStart, tEnd := q.tEnd }

/-- R134 with the premise `NoOtherKinds`: a two-kind front-end cannot cancel the address phase: until the next
data-exchange event it stays. -/
def Obligations.TwoKindStreamKeepsAddressPhase : Prop :=
  ∀ (s : State) (p : Period) (rest : List Period), s.feed = p :: rest → noOtherKinds s.feed = true →
    p.rst = false → p.isKind .dataExchange = false → s.phase = .awaitingAddress →
    ∃ t, step s = .next t ∧ t.phase = .awaitingAddress

/-- R68 with the premise `BytesPresent`: in full decode every data-exchange event of a run produces an event. -/
def Obligations.BytesPresentEveryExchangeEmits : Prop :=
  ∀ (s : State) (p : Period) (rest : List Period), s.feed = p :: rest → bytesPresent s.feed = true →
    p.isKind .dataExchange = true → s.cfg.verbosity = .full →
    ∃ t r, step s = .next t ∧ t.out = some r ∧
      (s.written = true ∨ s.phase = .awaitingAddress → t.written = true)

/-- R30: the value of a data byte reaches the output event of its own step and nothing else. Two exchanges of the data
phase in which the byte selected is present leave states that differ only in the byte their output carries, and
whatever is delivered after them, the two runs emit the same events: no later output depends on the byte. -/
def Obligations.DataByteReachesOnlyItsEvent : Prop :=
  (∀ (s : State) (c2p p2c c2p' p2c' : Option Byte) (d d' : Byte), s.phase = .inData →
    selectByte s.dir c2p p2c = some d → selectByte s.dir c2p' p2c' = some d' →
    exec (.xfer c2p' p2c') s = mapNext (State.replaceData d') (exec (.xfer c2p p2c) s)) ∧
  (∀ (s : State) (p q : Period) (rest : List Period) (t u : State) (k : Nat), s.phase = .inData →
    p.isSlot s.dir = true → q.isSlot s.dir = true → p.tStart = q.tStart → p.tEnd = q.tEnd →
    step { s with feed := p :: rest } = .next t → step { s with feed := q :: rest } = .next u →
    outputs k t = outputs k u)

/-! ## The invariant -/

/-- The invariant (the model's own, logs 1, 3) holds at reset, for any legal parameters and for those bound at `State.reset`. -/
def Obligations.ResetSatisfiesInvariant : Prop :=
  (∀ (c : Config) (n : Nat), c.wf = true → (State.resetWith c n).Inv) ∧ State.reset.Inv

/-- R21, R54, R85, R109: every step keeps the invariant: legal parameters, timestamps within their ports, and an
output that is one the rules emit and agrees with the state the step left. -/
def Obligations.StepKeepsInvariant : Prop :=
  ∀ (s t : State), s.Inv → step s = .next t → t.Inv

/-! ## What has no effect -/

/-- R47 (the spec's decision D5): bits the decoder ignores have no effect: two periods that agree on `rst`, `ev_valid`, the timestamps,
the kind and, for an exchange, the optional bytes, make the same step. -/
def Obligations.IgnoredInputBitsHaveNoEffect : Prop :=
  ∀ (s : State) (p q : Period) (rest : List Period),
    p.rst = q.rst → p.evValid = q.evValid → p.tStart = q.tStart → p.tEnd = q.tEnd → p.kind = q.kind →
    (p.kind = 0b10 → optByte p.c2pValid p.c2p = optByte q.c2pValid q.c2p ∧
      optByte p.p2cValid p.p2c = optByte q.p2cValid q.p2c) →
    step { s with feed := p :: rest } = step { s with feed := q :: rest }

/-- R48: timestamps are copied and nothing more: other timestamps on the next period change only themselves. -/
def Obligations.TimestampsOnlyCopied : Prop :=
  ∀ (s : State) (p : Period) (rest : List Period) (t0 t1 : Nat),
    step { s with feed := { p with tStart := t0, tEnd := t1 } :: rest } =
      mapNext (State.restamp t0 t1) (step { s with feed := p :: rest })

/-- R25, R124: outside the one undefined condition, what `cur_addr` and `dir` hold before an address byte writes them is
never observable: with any other contents the step has the same outcome but for those contents. -/
def Obligations.UnwrittenValuesAreUnobservable : Prop :=
  ∀ (s : State) (a : Addr) (w : Direction), s.undefinedNext = false →
    mapNext (State.refill a w) (step (s.refill a w)) = mapNext (State.refill a w) (step s)

/-- R110 (the spec's decision D12): the step reads neither the style, nor the names, nor the sentinel, nor `CHAR_OF`,
nor the timestamp width. -/
def Obligations.DisplayParametersUnread : Prop :=
  ∀ (s : State) (st : Style) (names : NameTable) (sentinel : String) (chars : Vector String 161) (tw : Nat),
    step (s.rebindDisplay st names sentinel chars tw) =
      mapNext (State.rebindDisplay st names sentinel chars tw) (step s)

/-! ## Names, strings, ports -/

/-- R94: `nameOf` gives the table's entry, or the sentinel where the table has none; in a canonical table an
address has at most the entry listed for it. -/
def Obligations.NameLookupIsEntryOrSentinel : Prop :=
  (∀ (c : Config) (a : Addr), (∀ n, c.nameTable.entry a = some n → nameOf c a = n) ∧
    (c.nameTable.entry a = none → nameOf c a = c.sentinel)) ∧
  (∀ (t : NameTable) (a : Addr) (n : String), NameTable.wf t = true →
    (NameTable.entry t a = some n ↔ (a.toNat, n) ∈ t))

/-- R28: every partial map from addresses to strings is a Register Table; a total one never shows the sentinel (the
premise `TableTotal`, R99). -/
def Obligations.AnyMapIsATable : Prop :=
  (∀ (f : Addr → Option String) (a : Addr), NameTable.entry (NameTable.ofEntries f) a = f a) ∧
  (∀ (c : Config), tableTotal c → ∀ a, ∃ n, c.nameTable.entry a = some n ∧ nameOf c a = n)

/-- R102, R106, R6: `HEX2`, with the rule's worked values; `CHAR_OF` is the ASCII character on the printable range
whatever the descriptor (log 10), and elsewhere a descriptor may bind it to any function. -/
def Obligations.HexAndCharStrings : Prop :=
  (∀ v : Byte, ∃ hi lo : Nat, hi < 16 ∧ lo < 16 ∧ v.toNat = 16 * hi + lo ∧
    (hex2 v).toList = ["0123456789ABCDEF".toList[hi]!, "0123456789ABCDEF".toList[lo]!]) ∧
  hex2 0xAB = "AB" ∧ hex2 0x05 = "05" ∧ hex2 0x00 = "00" ∧ hex2 0xFF = "FF" ∧ hex2 0x7F = "7F" ∧
  (∀ (c : Config) (d : Byte), 0x20 ≤ d.toNat → d.toNat ≤ 0x7E → (charOf c d).toList = [Char.ofNat d.toNat]) ∧
  (∀ (c : Config) (f : Byte → String) (d : Byte), d.toNat < 0x20 ∨ 0x7E < d.toNat →
    charOf (bindCharOf f c) d = f d)

/-- R101, R107, R108, R109: the fields of the rendered event. -/
def Obligations.RenderedEventFields : Prop :=
  (∀ (c : Config) (r : OutEvent),
    (render c r).category = categoryString r.cat ∧ (render c r).payload.registerName = nameOf c r.addr ∧
    (render c r).payload.direction = directionString r.dir ∧
    (render c r).startTime = r.tStart ∧ (render c r).endTime = r.tEnd) ∧
  [Category.address, .read, .write].map categoryString = ["address", "read", "write"] ∧
  [Direction.read, .write].map directionString = ["Read", "Write"]

/-- R103, R104, R105 (the spec's decisions D12, D13, D15): the display value in each style. -/
def Obligations.DisplayValueByStyle : Prop :=
  ∀ (c : Config) (r : OutEvent), r.wf = true →
    (r.cat = .address → (render c r).payload.displayValue =
      match c.style with
      | .plain => none
      | .annotated => some ("reg_0x" ++ hex2 (r.addr.setWidth 8))) ∧
    (∀ d, r.cat ≠ .address → r.data = some d → (render c r).payload.displayValue =
      match c.style with
      | .plain => some ("0x" ++ hex2 d)
      | .annotated => some (directionString r.dir ++ "-> 0x" ++ hex2 d ++ " = ASCII " ++ charOf c d))

/-- R53 (the spec's decision D6), R54: after any step that keeps running, `out_valid` is low in a period with `rst` or
without an event; where it is high the ports carry the record, field by field, `out_cat` is never `0b11`, and they
determine the record. -/
def Obligations.OutputPortsCarryTheRecord : Prop :=
  (∀ (s t : State) (p : Period) (rest : List Period), s.feed = p :: rest → p.isEvent = false →
    step s = .next t → t.outValid = false ∧ t.outPorts = none) ∧
  (∀ s : State, (s.outValid = true ↔ s.out ≠ none) ∧ (∀ r, s.out = some r → s.outPorts = some (portsOf r))) ∧
  (∀ r : OutEvent, (portsOf r).outCat ≠ 0b11 ∧ (portsOf r).outAddr = r.addr ∧
    (portsOf r).outData = r.data ∧ (portsOf r).outTStart = r.tStart ∧ (portsOf r).outTEnd = r.tEnd ∧
    ((portsOf r).outDir = 1 ↔ r.dir = .write) ∧ ((portsOf r).outDataValid = 1 ↔ r.data.isSome = true) ∧
    ((portsOf r).outCat = 0b00 ↔ r.cat = .address) ∧ ((portsOf r).outCat = 0b01 ↔ r.cat = .read) ∧
    ((portsOf r).outCat = 0b10 ↔ r.cat = .write)) ∧
  (∀ r r' : OutEvent, portsOf r = portsOf r' → r = r')
end

