-- ==== Sys2Proof/Laws/Encoding.lean ====
section
/-! SUPPORT. The layouts of the event word and of the address byte (R45, R49): each field comes back from the packed
word, and the packed word from its fields. Proofs about decoding cite these and never unfold a layout. -/

namespace Sys2Proof

/-! ## Fields of a packed word -/

@[simp] theorem wordKind_packWord (k : BitVec 2) (vc vp : Bool) (c p : Byte) :
    wordKind (packWord k vc vp c p) = k := by
  ext i hi
  simp only [wordKind, packWord, BitVec.getElem_extractLsb', BitVec.getLsbD_append]
  have : i = 0 ∨ i = 1 := by omega
  rcases this with rfl | rfl <;> simp [BitVec.getLsbD_eq_getElem]

theorem c2pValid_packWord (k : BitVec 2) (vc vp : Bool) (c p : Byte) :
    (packWord k vc vp c p).getLsbD 17 = vc := by
  simp only [packWord, BitVec.getLsbD_append]
  simp

theorem p2cValid_packWord (k : BitVec 2) (vc vp : Bool) (c p : Byte) :
    (packWord k vc vp c p).getLsbD 16 = vp := by
  simp only [packWord, BitVec.getLsbD_append]
  simp

theorem c2p_packWord (k : BitVec 2) (vc vp : Bool) (c p : Byte) :
    (packWord k vc vp c p).extractLsb' 8 8 = c := by
  ext i hi
  simp only [packWord, BitVec.getElem_extractLsb', BitVec.getLsbD_append]
  have h : ¬ (8 + i < 8) := by omega
  have h' : 8 + i - 8 = i := by omega
  simp [h, h', hi]

theorem p2c_packWord (k : BitVec 2) (vc vp : Bool) (c p : Byte) :
    (packWord k vc vp c p).extractLsb' 0 8 = p := by
  ext i hi
  simp only [packWord, BitVec.getElem_extractLsb', BitVec.getLsbD_append]
  simp [hi]

@[simp] theorem wordC2p_packWord (k : BitVec 2) (vc vp : Bool) (c p : Byte) :
    wordC2p (packWord k vc vp c p) = optByte vc c := by
  simp only [wordC2p, c2pValid_packWord, c2p_packWord]

@[simp] theorem wordP2c_packWord (k : BitVec 2) (vc vp : Bool) (c p : Byte) :
    wordP2c (packWord k vc vp c p) = optByte vp p := by
  simp only [wordP2c, p2cValid_packWord, p2c_packWord]

@[simp] theorem optByte_isSome_getD (o : Option Byte) (d : Byte) : optByte o.isSome (o.getD d) = o := by
  cases o <;> rfl

@[simp] theorem wordKind_canonicalWord (k : BitVec 2) (c p : Option Byte) :
    wordKind (canonicalWord k c p) = k := by simp [canonicalWord]

@[simp] theorem wordC2p_canonicalWord (k : BitVec 2) (c p : Option Byte) :
    wordC2p (canonicalWord k c p) = c := by simp [canonicalWord]

@[simp] theorem wordP2c_canonicalWord (k : BitVec 2) (c p : Option Byte) :
    wordP2c (canonicalWord k c p) = p := by simp [canonicalWord]

/-- The packed fields of a word are the word. -/
theorem packWord_fields (w : EventWord) :
    packWord (wordKind w) (w.getLsbD 17) (w.getLsbD 16) (w.extractLsb' 8 8) (w.extractLsb' 0 8) = w := by
  apply BitVec.eq_of_getLsbD_eq
  intro i hi
  simp only [packWord, wordKind, BitVec.getLsbD_append, BitVec.getLsbD_extractLsb', BitVec.getLsbD_ofBool]
  have h : i < 8 ∨ (8 ≤ i ∧ i < 16) ∨ i = 16 ∨ i = 17 ∨ i = 18 ∨ i = 19 := by omega
  rcases h with h | ⟨h, h'⟩ | rfl | rfl | rfl | rfl
  · simp [h]
  · have h1 : ¬ i < 8 := by omega
    have h2 : i - 8 < 8 := by omega
    have h3 : 8 + (i - 8) = i := by omega
    simp [h1, h2, h3]
  all_goals simp

/-! ## The kind codes -/

@[simp] theorem kindOfBits_bits (k : Kind) : kindOfBits k.bits = k := by cases k <;> rfl

theorem bits_kindOfBits (k : BitVec 2) : (kindOfBits k).bits = k := by
  revert k; decide

/-! ## The address byte -/

@[simp] theorem byteDir_addressByte (w : Direction) (a : Addr) : byteDir (addressByte w a) = w := by
  cases w <;> revert a <;> decide

@[simp] theorem byteAddr_addressByte (w : Direction) (a : Addr) : byteAddr (addressByte w a) = a := by
  cases w <;> revert a <;> decide

@[simp] theorem addressByte_fields (b : Byte) : addressByte (byteDir b) (byteAddr b) = b := by
  revert b; decide

/-! ## Decoding the canonical word of an event -/

theorem decodeWord_canonicalWord_exchange (c p : Option Byte) :
    decodeWord (canonicalWord Kind.dataExchange.bits c p) = .xfer c p := by
  simp [decodeWord]

end Sys2Proof
end

