-- ==== Sys2Proof/Laws/Instances.lean ====
section
/-! SUPPORT. Two instances share nothing (R40): their interleaving is their running alone. -/

namespace Sys2Proof.Machine

/-- R40: "Interleaving the steps of two instances in any order gives each instance the same outputs and final state
as running it alone". It holds because an instance is a state of its own (R27), whatever `step` does. -/
theorem interleave_alone (sched : List Bool) (x y : Host.Outcome State Fault Refusal) :
    interleave sched (x, y) = (runAlone (sched.count true) x, runAlone (sched.count false) y) := by
  induction sched generalizing x y with
  | nil => rfl
  | cons b rest ih => cases b <;> simp [interleave, ih, runAlone]

end Sys2Proof.Machine
end

