-- ==== Sys2Proof/Laws/Names.lean ====
section
/-! SUPPORT. The Register Table keeps its canonical form (R28): the table of any partial map has it, so the one bound
at reset has it. No operation of the machine writes the table. And the places of the bytes where `CHAR_OF` is open. -/

namespace Sys2Proof

theorem wfFrom_filterMap_range' (f : Nat → Option String) :
    ∀ (n low : Nat), low + n ≤ 128 →
      NameTable.wfFrom low ((List.range' low n).filterMap fun k => (f k).map fun m => (k, m)) = true
  | 0, low, _ => by simp [NameTable.wfFrom]
  | n + 1, low, h => by
    have ih := wfFrom_filterMap_range' f n (low + 1) (by omega)
    rw [List.range'_succ]
    cases hf : f low with
    | none =>
      simp only [List.filterMap_cons, hf, Option.map_none]
      exact wfFrom_weaken (by omega) ih
    | some m =>
      simp only [List.filterMap_cons, hf, Option.map_some, NameTable.wfFrom]
      simp only [le_refl, decide_true, Bool.true_and, Bool.and_eq_true, decide_eq_true_eq]
      exact ⟨by omega, ih⟩
where
  wfFrom_weaken {low high : Nat} {t : NameTable} (h : low ≤ high) (ht : NameTable.wfFrom high t = true) :
      NameTable.wfFrom low t = true := by
    cases t with
    | nil => rfl
    | cons e rest =>
      simp only [NameTable.wfFrom, Bool.and_eq_true, decide_eq_true_eq] at ht ⊢
      exact ⟨⟨by omega, ht.1.2⟩, ht.2⟩

/-- The table of a partial map is in canonical form. -/
theorem ofEntries_wf (f : Addr → Option String) : NameTable.wf (NameTable.ofEntries f) = true := by
  rw [NameTable.wf, NameTable.ofEntries, List.range_eq_range']
  exact wfFrom_filterMap_range' (fun k => f (BitVec.ofNat 7 k)) 128 0 (by omega)

/-- The parameters bound at reset are legal, whatever the free values are. -/
theorem bound_wf : Config.bound.wf = true := by
  simp [Config.wf, Config.bound, Config.b, ofEntries_wf]

namespace Machine

/-- On the printable range `CHAR_OF` has no place in the descriptor. -/
theorem openIndex_printable {d : Byte} (h1 : 0x20 ≤ d.toNat) (h2 : d.toNat ≤ 0x7E) : openIndex d = none := by
  unfold openIndex
  rw [dif_neg (by omega), if_pos h2]

/-- Elsewhere every byte has one, and the byte at that place is the byte itself. -/
theorem openIndex_open {d : Byte} (h : d.toNat < 0x20 ∨ 0x7E < d.toNat) :
    ∃ k, openIndex d = some k ∧ openByte k = d := by
  unfold openIndex
  by_cases h1 : d.toNat < 0x20
  · exact ⟨_, dif_pos h1, by simp [openByte, h1]⟩
  · refine ⟨_, by rw [dif_neg h1, if_neg (by omega)], ?_⟩
    rw [openByte, if_neg (by simp; omega), Nat.sub_add_cancel (by omega), BitVec.ofNat_toNat, BitVec.setWidth_eq]

end Machine

end Sys2Proof
end

