-- ==== Sys2Proof/Laws/State.lean ====
section
/-! SUPPORT. What each shared operation leaves in each field of the state: one lemma per field per update, so that
no proof unfolds a record update. -/

namespace Sys2Proof.Machine

/-! ## recordKind -/

@[simp] theorem recordKind_phase (k : Kind) (s : State) : (recordKind k s).phase = phaseAfter k := rfl
@[simp] theorem recordKind_curAddr (k : Kind) (s : State) : (recordKind k s).curAddr = s.curAddr := rfl
@[simp] theorem recordKind_dir (k : Kind) (s : State) : (recordKind k s).dir = s.dir := rfl
@[simp] theorem recordKind_written (k : Kind) (s : State) : (recordKind k s).written = s.written := rfl
@[simp] theorem recordKind_resets (k : Kind) (s : State) : (recordKind k s).resets = s.resets := rfl
@[simp] theorem recordKind_cfg (k : Kind) (s : State) : (recordKind k s).cfg = s.cfg := rfl
@[simp] theorem recordKind_feed (k : Kind) (s : State) : (recordKind k s).feed = s.feed := rfl
@[simp] theorem recordKind_tStart (k : Kind) (s : State) : (recordKind k s).tStart = s.tStart := rfl
@[simp] theorem recordKind_tEnd (k : Kind) (s : State) : (recordKind k s).tEnd = s.tEnd := rfl
@[simp] theorem recordKind_out (k : Kind) (s : State) : (recordKind k s).out = s.out := rfl
@[simp] theorem recordKind_drop (k : Kind) (s : State) : (recordKind k s).drop = s.drop := rfl

/-! ## noOutput -/

@[simp] theorem noOutput_phase (s : State) : (noOutput s).phase = s.phase := rfl
@[simp] theorem noOutput_curAddr (s : State) : (noOutput s).curAddr = s.curAddr := rfl
@[simp] theorem noOutput_dir (s : State) : (noOutput s).dir = s.dir := rfl
@[simp] theorem noOutput_written (s : State) : (noOutput s).written = s.written := rfl
@[simp] theorem noOutput_resets (s : State) : (noOutput s).resets = s.resets := rfl
@[simp] theorem noOutput_cfg (s : State) : (noOutput s).cfg = s.cfg := rfl
@[simp] theorem noOutput_feed (s : State) : (noOutput s).feed = s.feed := rfl
@[simp] theorem noOutput_tStart (s : State) : (noOutput s).tStart = s.tStart := rfl
@[simp] theorem noOutput_tEnd (s : State) : (noOutput s).tEnd = s.tEnd := rfl
@[simp] theorem noOutput_out (s : State) : (noOutput s).out = none := rfl
@[simp] theorem noOutput_drop (s : State) : (noOutput s).drop = none := rfl

/-! ## emit -/

@[simp] theorem emit_phase (r : OutEvent) (s : State) : (emit r s).phase = s.phase := rfl
@[simp] theorem emit_curAddr (r : OutEvent) (s : State) : (emit r s).curAddr = s.curAddr := rfl
@[simp] theorem emit_dir (r : OutEvent) (s : State) : (emit r s).dir = s.dir := rfl
@[simp] theorem emit_written (r : OutEvent) (s : State) : (emit r s).written = s.written := rfl
@[simp] theorem emit_resets (r : OutEvent) (s : State) : (emit r s).resets = s.resets := rfl
@[simp] theorem emit_cfg (r : OutEvent) (s : State) : (emit r s).cfg = s.cfg := rfl
@[simp] theorem emit_feed (r : OutEvent) (s : State) : (emit r s).feed = s.feed := rfl
@[simp] theorem emit_tStart (r : OutEvent) (s : State) : (emit r s).tStart = s.tStart := rfl
@[simp] theorem emit_tEnd (r : OutEvent) (s : State) : (emit r s).tEnd = s.tEnd := rfl
@[simp] theorem emit_out (r : OutEvent) (s : State) : (emit r s).out = some r := rfl
@[simp] theorem emit_drop (r : OutEvent) (s : State) : (emit r s).drop = none := rfl

/-! ## dropEvent -/

@[simp] theorem dropEvent_phase (site : DropSite) (s : State) : (dropEvent site s).phase = s.phase := rfl
@[simp] theorem dropEvent_curAddr (site : DropSite) (s : State) : (dropEvent site s).curAddr = s.curAddr := rfl
@[simp] theorem dropEvent_dir (site : DropSite) (s : State) : (dropEvent site s).dir = s.dir := rfl
@[simp] theorem dropEvent_written (site : DropSite) (s : State) : (dropEvent site s).written = s.written := rfl
@[simp] theorem dropEvent_resets (site : DropSite) (s : State) : (dropEvent site s).resets = s.resets := rfl
@[simp] theorem dropEvent_cfg (site : DropSite) (s : State) : (dropEvent site s).cfg = s.cfg := rfl
@[simp] theorem dropEvent_feed (site : DropSite) (s : State) : (dropEvent site s).feed = s.feed := rfl
@[simp] theorem dropEvent_tStart (site : DropSite) (s : State) : (dropEvent site s).tStart = s.tStart := rfl
@[simp] theorem dropEvent_tEnd (site : DropSite) (s : State) : (dropEvent site s).tEnd = s.tEnd := rfl
@[simp] theorem dropEvent_out (site : DropSite) (s : State) : (dropEvent site s).out = none := rfl
@[simp] theorem dropEvent_drop (site : DropSite) (s : State) : (dropEvent site s).drop = some site := rfl

/-! ## writeAddress -/

@[simp] theorem writeAddress_phase (w : Direction) (a : Addr) (s : State) : (writeAddress w a s).phase = s.phase := rfl
@[simp] theorem writeAddress_curAddr (w : Direction) (a : Addr) (s : State) : (writeAddress w a s).curAddr = a := rfl
@[simp] theorem writeAddress_dir (w : Direction) (a : Addr) (s : State) : (writeAddress w a s).dir = w := rfl
@[simp] theorem writeAddress_written (w : Direction) (a : Addr) (s : State) : (writeAddress w a s).written = true := rfl
@[simp] theorem writeAddress_resets (w : Direction) (a : Addr) (s : State) : (writeAddress w a s).resets = s.resets := rfl
@[simp] theorem writeAddress_cfg (w : Direction) (a : Addr) (s : State) : (writeAddress w a s).cfg = s.cfg := rfl
@[simp] theorem writeAddress_feed (w : Direction) (a : Addr) (s : State) : (writeAddress w a s).feed = s.feed := rfl
@[simp] theorem writeAddress_tStart (w : Direction) (a : Addr) (s : State) : (writeAddress w a s).tStart = s.tStart := rfl
@[simp] theorem writeAddress_tEnd (w : Direction) (a : Addr) (s : State) : (writeAddress w a s).tEnd = s.tEnd := rfl
@[simp] theorem writeAddress_out (w : Direction) (a : Addr) (s : State) : (writeAddress w a s).out = s.out := rfl
@[simp] theorem writeAddress_drop (w : Direction) (a : Addr) (s : State) : (writeAddress w a s).drop = s.drop := rfl

/-! ## autoIncrement -/

@[simp] theorem autoIncrement_phase (s : State) : (autoIncrement s).phase = s.phase := rfl
@[simp] theorem autoIncrement_curAddr (s : State) : (autoIncrement s).curAddr = nextAddr s.cfg.fifoAddr s.curAddr := rfl
@[simp] theorem autoIncrement_dir (s : State) : (autoIncrement s).dir = s.dir := rfl
@[simp] theorem autoIncrement_written (s : State) : (autoIncrement s).written = s.written := rfl
@[simp] theorem autoIncrement_resets (s : State) : (autoIncrement s).resets = s.resets := rfl
@[simp] theorem autoIncrement_cfg (s : State) : (autoIncrement s).cfg = s.cfg := rfl
@[simp] theorem autoIncrement_feed (s : State) : (autoIncrement s).feed = s.feed := rfl
@[simp] theorem autoIncrement_tStart (s : State) : (autoIncrement s).tStart = s.tStart := rfl
@[simp] theorem autoIncrement_tEnd (s : State) : (autoIncrement s).tEnd = s.tEnd := rfl
@[simp] theorem autoIncrement_out (s : State) : (autoIncrement s).out = s.out := rfl
@[simp] theorem autoIncrement_drop (s : State) : (autoIncrement s).drop = s.drop := rfl

/-! ## presentPeriod -/

@[simp] theorem presentPeriod_phase (p : Period) (rest : List Period) (s : State) : (presentPeriod p rest s).phase = s.phase := rfl
@[simp] theorem presentPeriod_curAddr (p : Period) (rest : List Period) (s : State) : (presentPeriod p rest s).curAddr = s.curAddr := rfl
@[simp] theorem presentPeriod_dir (p : Period) (rest : List Period) (s : State) : (presentPeriod p rest s).dir = s.dir := rfl
@[simp] theorem presentPeriod_written (p : Period) (rest : List Period) (s : State) : (presentPeriod p rest s).written = s.written := rfl
@[simp] theorem presentPeriod_resets (p : Period) (rest : List Period) (s : State) : (presentPeriod p rest s).resets = s.resets := rfl
@[simp] theorem presentPeriod_cfg (p : Period) (rest : List Period) (s : State) : (presentPeriod p rest s).cfg = s.cfg := rfl
@[simp] theorem presentPeriod_feed (p : Period) (rest : List Period) (s : State) : (presentPeriod p rest s).feed = rest := rfl
@[simp] theorem presentPeriod_tStart (p : Period) (rest : List Period) (s : State) : (presentPeriod p rest s).tStart = p.tStart := rfl
@[simp] theorem presentPeriod_tEnd (p : Period) (rest : List Period) (s : State) : (presentPeriod p rest s).tEnd = p.tEnd := rfl
@[simp] theorem presentPeriod_out (p : Period) (rest : List Period) (s : State) : (presentPeriod p rest s).out = s.out := rfl
@[simp] theorem presentPeriod_drop (p : Period) (rest : List Period) (s : State) : (presentPeriod p rest s).drop = s.drop := rfl

/-! ## takeReset -/

@[simp] theorem takeReset_phase (s : State) : (takeReset s).phase = .inData := rfl
@[simp] theorem takeReset_curAddr (s : State) : (takeReset s).curAddr = Config.resetAddr (s.resets + 1) := rfl
@[simp] theorem takeReset_dir (s : State) : (takeReset s).dir = Config.resetDir (s.resets + 1) := rfl
@[simp] theorem takeReset_written (s : State) : (takeReset s).written = false := rfl
@[simp] theorem takeReset_resets (s : State) : (takeReset s).resets = s.resets + 1 := rfl
@[simp] theorem takeReset_cfg (s : State) : (takeReset s).cfg = s.cfg := rfl
@[simp] theorem takeReset_feed (s : State) : (takeReset s).feed = s.feed := rfl
@[simp] theorem takeReset_tStart (s : State) : (takeReset s).tStart = s.tStart := rfl
@[simp] theorem takeReset_tEnd (s : State) : (takeReset s).tEnd = s.tEnd := rfl
@[simp] theorem takeReset_out (s : State) : (takeReset s).out = none := rfl
@[simp] theorem takeReset_drop (s : State) : (takeReset s).drop = none := rfl

/-! ## idlePeriod -/

@[simp] theorem idlePeriod_phase (s : State) : (idlePeriod s).phase = s.phase := rfl
@[simp] theorem idlePeriod_curAddr (s : State) : (idlePeriod s).curAddr = s.curAddr := rfl
@[simp] theorem idlePeriod_dir (s : State) : (idlePeriod s).dir = s.dir := rfl
@[simp] theorem idlePeriod_written (s : State) : (idlePeriod s).written = s.written := rfl
@[simp] theorem idlePeriod_resets (s : State) : (idlePeriod s).resets = s.resets := rfl
@[simp] theorem idlePeriod_cfg (s : State) : (idlePeriod s).cfg = s.cfg := rfl
@[simp] theorem idlePeriod_feed (s : State) : (idlePeriod s).feed = s.feed := rfl
@[simp] theorem idlePeriod_tStart (s : State) : (idlePeriod s).tStart = s.tStart := rfl
@[simp] theorem idlePeriod_tEnd (s : State) : (idlePeriod s).tEnd = s.tEnd := rfl
@[simp] theorem idlePeriod_out (s : State) : (idlePeriod s).out = none := rfl
@[simp] theorem idlePeriod_drop (s : State) : (idlePeriod s).drop = none := rfl

/-! ## The reset state -/

@[simp] theorem resetWith_phase (c : Config) (n : Nat) : (State.resetWith c n).phase = .inData := rfl
@[simp] theorem resetWith_curAddr (c : Config) (n : Nat) : (State.resetWith c n).curAddr = Config.resetAddr n := rfl
@[simp] theorem resetWith_dir (c : Config) (n : Nat) : (State.resetWith c n).dir = Config.resetDir n := rfl
@[simp] theorem resetWith_written (c : Config) (n : Nat) : (State.resetWith c n).written = false := rfl
@[simp] theorem resetWith_resets (c : Config) (n : Nat) : (State.resetWith c n).resets = n := rfl
@[simp] theorem resetWith_cfg (c : Config) (n : Nat) : (State.resetWith c n).cfg = c := rfl
@[simp] theorem resetWith_feed (c : Config) (n : Nat) : (State.resetWith c n).feed = [] := rfl
@[simp] theorem resetWith_tStart (c : Config) (n : Nat) : (State.resetWith c n).tStart = 0 := rfl
@[simp] theorem resetWith_tEnd (c : Config) (n : Nat) : (State.resetWith c n).tEnd = 0 := rfl
@[simp] theorem resetWith_out (c : Config) (n : Nat) : (State.resetWith c n).out = none := rfl
@[simp] theorem resetWith_drop (c : Config) (n : Nat) : (State.resetWith c n).drop = none := rfl

end Sys2Proof.Machine
end

