-- ==== Sys2Proof/Laws/Ops.lean ====
section
/-! SUPPORT. What each shared operation can do, said once: the two arms of the step of R62, the
umbrella event, a period and a step. Proofs cite these and do not unfold the operations. -/

namespace Sys2Proof.Machine

/-! ## The data phase -/

theorem dataArm_addressOnly (c p : Option Byte) {s : State} (h : s.cfg.verbosity = .addressOnly) :
    dataArm c p s = noOutput s := by
  simp [dataArm, h]

theorem dataArm_absent {c p : Option Byte} {s : State} (h : s.cfg.verbosity = .full)
    (hb : selectByte s.dir c p = none) : dataArm c p s = dropEvent .dataByteAbsent s := by
  simp [dataArm, h, hb]

theorem dataArm_present {c p : Option Byte} {s : State} {b : Byte} (h : s.cfg.verbosity = .full)
    (hb : selectByte s.dir c p = some b) :
    dataArm c p s = autoIncrement (emit (dataEvent s.dir b s) s) := by
  simp [dataArm, h, hb]

/-! ## The umbrella event -/

theorem exchange_awaiting (c p : Option Byte) {s : State} (h : s.phase = .awaitingAddress) :
    exchange c p s = addressArm c (recordKind .dataExchange s) := by
  simp [exchange, h]

theorem exchange_inData (c p : Option Byte) {s : State} (h : s.phase = .inData) :
    exchange c p s = dataArm c p (recordKind .dataExchange s) := by
  simp [exchange, h]

/-- Everything a data-exchange event can do: five outcomes, one in each state. -/
theorem exchange_cases (c p : Option Byte) (s : State) :
    (s.phase = .awaitingAddress ∧ c = none ∧
      exchange c p s = dropEvent .addrByteAbsent (recordKind .dataExchange s)) ∨
    (∃ b, s.phase = .awaitingAddress ∧ c = some b ∧
      exchange c p s = emit (addressEvent (byteDir b) (byteAddr b) s)
        (writeAddress (byteDir b) (byteAddr b) (recordKind .dataExchange s))) ∨
    (s.phase = .inData ∧ s.cfg.verbosity = .addressOnly ∧
      exchange c p s = noOutput (recordKind .dataExchange s)) ∨
    (s.phase = .inData ∧ s.cfg.verbosity = .full ∧ selectByte s.dir c p = none ∧
      exchange c p s = dropEvent .dataByteAbsent (recordKind .dataExchange s)) ∨
    (∃ b, s.phase = .inData ∧ s.cfg.verbosity = .full ∧ selectByte s.dir c p = some b ∧
      exchange c p s = autoIncrement (emit (dataEvent s.dir b s) (recordKind .dataExchange s))) := by
  cases hp : s.phase with
  | awaitingAddress =>
    rw [exchange_awaiting c p hp]
    cases c with
    | none => exact .inl ⟨rfl, rfl, rfl⟩
    | some b => exact .inr (.inl ⟨b, rfl, rfl, rfl⟩)
  | inData =>
    rw [exchange_inData c p hp]
    cases hv : s.cfg.verbosity with
    | addressOnly => exact .inr (.inr (.inl ⟨rfl, rfl, dataArm_addressOnly c p hv⟩))
    | full =>
      cases hb : selectByte s.dir c p with
      | none => exact .inr (.inr (.inr (.inl ⟨rfl, rfl, rfl, dataArm_absent hv hb⟩)))
      | some b => exact .inr (.inr (.inr (.inr ⟨b, rfl, rfl, rfl, dataArm_present hv hb⟩)))

/-! ## A period and a step -/

theorem step_nil {s : State} (h : s.feed = []) : step s = .next (idlePeriod s) := by
  simp [step, h]

theorem step_cons {s : State} {p : Period} {rest : List Period} (h : s.feed = p :: rest) :
    step s = runPeriod p (presentPeriod p rest s) := by
  simp [step, h]

theorem runPeriod_reset {p : Period} (s : State) (h : p.rst = true) : runPeriod p s = .next (takeReset s) := by
  simp [runPeriod, h]

theorem runPeriod_idle {p : Period} (s : State) (h : p.rst = false) (he : p.evValid = false) :
    runPeriod p s = .next (idlePeriod s) := by
  simp [runPeriod, h, he]

theorem runPeriod_event {p : Period} (s : State) (h : p.rst = false) (he : p.evValid = true) :
    runPeriod p s = exec (fetchInstr p) s := by
  simp [runPeriod, h, he]

/-- Everything a step can do: a period without anything delivered, a reset, or an event. -/
theorem step_next {s t : State} (h : step s = .next t) :
    (s.feed = [] ∧ t = idlePeriod s) ∨
    (∃ p rest, s.feed = p :: rest ∧ p.rst = true ∧ t = takeReset (presentPeriod p rest s)) ∨
    (∃ p rest, s.feed = p :: rest ∧ p.rst = false ∧ p.evValid = false ∧
      t = idlePeriod (presentPeriod p rest s)) ∨
    (∃ p rest, s.feed = p :: rest ∧ p.rst = false ∧ p.evValid = true ∧
      exec (fetchInstr p) (presentPeriod p rest s) = .next t) := by
  cases hf : s.feed with
  | nil =>
    rw [step_nil hf] at h
    exact .inl ⟨rfl, (Host.Outcome.next.inj h).symm⟩
  | cons p rest =>
    rw [step_cons hf] at h
    cases hr : p.rst with
    | true =>
      rw [runPeriod_reset _ hr] at h
      exact .inr (.inl ⟨p, rest, rfl, hr, (Host.Outcome.next.inj h).symm⟩)
    | false =>
      cases he : p.evValid with
      | false =>
        rw [runPeriod_idle _ hr he] at h
        exact .inr (.inr (.inl ⟨p, rest, rfl, hr, he, (Host.Outcome.next.inj h).symm⟩))
      | true =>
        rw [runPeriod_event _ hr he] at h
        exact .inr (.inr (.inr ⟨p, rest, rfl, hr, he, h⟩))

end Sys2Proof.Machine
end

