-- ==== Sys2Proof/Laws/PerInstr.lean ====
section
/-! SUPPORT. The family `EncodedInRow`: the bits of every instruction lie in its own row of spec/opcode_table.json
("an event `w` belongs to a row when `w & mask = match`", R60), one lemma per constructor. -/

namespace Sys2Proof.Laws.EncodedInRow

/-- The instruction's bits under its row's mask are its row's match. -/
def Statement (i : Instr) : Prop := (encode i).bits &&& i.rowMask = i.rowPattern

/-- Masking a packed word keeps the fields that the mask covers and clears the others. -/
theorem packWord_and (k : BitVec 2) (vc vp : Bool) (c p : Byte) (mc mp : Bool) :
    packWord k vc vp c p &&& packWord 0b11 mc mp 0 0 = packWord k (vc && mc) (vp && mp) 0 0 := by
  apply BitVec.eq_of_getLsbD_eq
  intro i hi
  simp only [packWord, BitVec.getLsbD_and, BitVec.getLsbD_append, BitVec.getLsbD_ofBool]
  have h : i < 8 ∨ (8 ≤ i ∧ i < 16) ∨ i = 16 ∨ i = 17 ∨ i = 18 ∨ i = 19 := by omega
  rcases h with h | ⟨h, h'⟩ | rfl | rfl | rfl | rfl
  · simp [h]
  · have h1 : ¬ i < 8 := by omega
    have h2 : i - 8 < 8 := by omega
    simp [h1, h2]
  all_goals simp

theorem maskE : (0xE0000 : BitVec 20) = packWord 0b11 true false 0 0 := by decide
theorem maskD : (0xD0000 : BitVec 20) = packWord 0b11 false true 0 0 := by decide
theorem maskC : (0xC0000 : BitVec 20) = packWord 0b11 false false 0 0 := by decide

/-- Rows that tell `kind` and whether `c2p` is present. -/
theorem canonicalWord_and_E (k : BitVec 2) (c p : Option Byte) :
    canonicalWord k c p &&& 0xE0000 = packWord k c.isSome false 0 0 := by
  rw [maskE, canonicalWord, packWord_and]; simp

/-- Rows that tell `kind` and whether `p2c` is present. -/
theorem canonicalWord_and_D (k : BitVec 2) (c p : Option Byte) :
    canonicalWord k c p &&& 0xD0000 = packWord k false p.isSome 0 0 := by
  rw [maskD, canonicalWord, packWord_and]; simp

/-- Rows that tell `kind` alone. -/
theorem canonicalWord_and_C (k : BitVec 2) (c p : Option Byte) :
    canonicalWord k c p &&& 0xC0000 = packWord k false false 0 0 := by
  rw [maskC, canonicalWord, packWord_and]; simp

/-- The `match` of the rows with `c2p` present, and of the row with `p2c` present. -/
theorem c2pPresent : packWord 0b10 true false 0 0 = 0xA0000 := by decide
theorem p2cPresent : packWord 0b10 false true 0 0 = 0x90000 := by decide

theorem sel : Statement .sel := by unfold Statement; decide

theorem othK0 : Statement .othK0 := by unfold Statement; decide

theorem othK3 : Statement .othK3 := by unfold Statement; decide

theorem xfer (c2p p2c : Option Byte) : Statement (.xfer c2p p2c) :=
  (canonicalWord_and_C 0b10 c2p p2c).trans rfl

theorem xferA (w : Direction) (a : Addr) (p2c : Option Byte) : Statement (.xferA w a p2c) :=
  (canonicalWord_and_E 0b10 (some (addressByte w a)) p2c).trans c2pPresent

theorem xferADrop (p2c : Option Byte) : Statement (.xferADrop p2c) :=
  (canonicalWord_and_E 0b10 none p2c).trans rfl

theorem xferW (d : Byte) (p2c : Option Byte) : Statement (.xferW d p2c) :=
  (canonicalWord_and_E 0b10 (some d) p2c).trans c2pPresent

theorem xferWDrop (p2c : Option Byte) : Statement (.xferWDrop p2c) :=
  (canonicalWord_and_E 0b10 none p2c).trans rfl

theorem xferR (d : Byte) (c2p : Option Byte) : Statement (.xferR d c2p) :=
  (canonicalWord_and_D 0b10 c2p (some d)).trans p2cPresent

theorem xferRDrop (c2p : Option Byte) : Statement (.xferRDrop c2p) :=
  (canonicalWord_and_D 0b10 c2p none).trans rfl

theorem xferAO (c2p p2c : Option Byte) : Statement (.xferAO c2p p2c) :=
  (canonicalWord_and_C 0b10 c2p p2c).trans rfl

theorem addrRd (a : Addr) : Statement (.addrRd a) := by
  revert a; unfold Statement; decide

theorem addrWr (a : Addr) : Statement (.addrWr a) := by
  revert a; unfold Statement; decide

end Sys2Proof.Laws.EncodedInRow
end

