-- ==== Sys2Proof/Tests/Slice0.lean ====
section
/-! SUPPORT. The model's own tests: words written out from the encodings of 30_encoding.md, steps with the results that
95_test_vectors.md lists, an ill-formed term for each check of WellFormed, and for every statement with hypotheses a
concrete state and operands that meet them. No register name of a real table is assumed (R100): the names here are
the tests' own. -/

namespace Sys2Proof.Tests

open Machine

/-! ## Small states -/

/-- Parameters with one named register. -/
def cfg (fifo : Addr) (v : Verbosity) (st : Style) : Config := ⟨fifo, v, st, [(1, "one")], "absent", .replicate 161 "?", 16⟩

/-- `CFG_B`, `CFG_C` and `CFG_A_ADDR` of 00_scope.md. -/
def cfgB : Config := cfg 0x00 .full .plain
def cfgC : Config := cfg 0x7F .full .annotated
def cfgAO : Config := cfg 0x00 .addressOnly .plain

/-- The state `(phase, cur_addr, dir)` of 95_test_vectors.md, with registers that have been written. -/
def st (c : Config) (ph : Phase) (a : Addr) (d : Direction) : State :=
  { State.resetWith c 0 with phase := ph, curAddr := a, dir := d, written := true }

/-- The state `(phase, none, none)`: `cur_addr` and `dir` hold the free values. -/
def fresh (c : Config) (ph : Phase) : State := { State.resetWith c 0 with phase := ph }

/-- The state with one event word in its feed, at the timestamps 10 and 18. -/
def feeding (s : State) (w : EventWord) : State := { s with feed := [wordPeriod w 10 18] }

/-- `(phase, cur_addr, dir)` and the output of a next state; `cur_addr` and `dir` show only where they have a value. -/
def view : Host.Outcome State Fault Refusal → Option (Phase × Option (Direction × Addr) × Option OutEvent)
  | .next s => some (s.phase, if s.written then some (s.dir, s.curAddr) else none, s.out)
  | .fault _ => none
  | .refused _ => none

/-- What the vectors list: the state after, and the output at the timestamps 10 and 18. -/
def after (ph : Phase) (a : Addr) (d : Direction) (o : Option (Category × Addr × Direction × Option Byte)) :
    Option (Phase × Option (Direction × Addr) × Option OutEvent) :=
  some (ph, some (d, a), o.map fun r => ⟨r.1, r.2.1, r.2.2.1, r.2.2.2, 10, 18⟩)

/-! ## Decoding: words written out bit by bit, `kind c2p_valid p2c_valid c2p p2c` -/

theorem test_decode_sel : decodeWord 0b01000000000000000000 = .sel := by decide
theorem test_decode_othK0 : decodeWord 0b00000000000000000000 = .othK0 := by decide
theorem test_decode_othK3 : decodeWord 0b11000000000000000000 = .othK3 := by decide
theorem test_decode_ignored_bits : decodeWord 0b01111111111111111111 = .sel ∧
    decodeWord 0b11111111111111111111 = .othK3 := by decide
theorem test_decode_xfer : decodeWord 0b10111000000100000000 = .xfer (some 0x81) (some 0x00) := by decide
theorem test_decode_xferA :
    decodeIn .awaitingAddress .full .read 0b10101000000100000000 = .xferA .write 0x01 none := by decide
theorem test_decode_xferADrop :
    decodeIn .awaitingAddress .full .read 0b10010000000010000001 = .xferADrop (some 0x81) := by decide
theorem test_decode_xferW :
    decodeIn .inData .full .write 0b10101010101100000000 = .xferW 0xAB none := by decide
theorem test_decode_xferWDrop :
    decodeIn .inData .full .write 0b10010000000011001101 = .xferWDrop (some 0xCD) := by decide
theorem test_decode_xferR :
    decodeIn .inData .full .read 0b10111010101111001101 = .xferR 0xCD (some 0xAB) := by decide
theorem test_decode_xferRDrop :
    decodeIn .inData .full .read 0b10101010101100000000 = .xferRDrop (some 0xAB) := by decide
theorem test_decode_xferAO :
    decodeIn .inData .addressOnly .read 0b10111010101100000000 = .xferAO (some 0xAB) (some 0x00) := by decide
theorem test_decode_addrRd : decodeByte 0b00000001 = .addrRd 0x01 := by decide
theorem test_decode_addrWr : decodeByte 0b11111111 = .addrWr 0x7F := by decide
theorem test_decodeTableWord : decodeTableWord 24 0x40000 = some .sel ∧ decodeTableWord 8 0x81 = some (.addrWr 0x01) ∧
    decodeTableWord 24 0xA8000 = some (.xfer (some 0x80) none) := by decide
theorem test_decode_rejects : decodeTable 24 0x100000 = .error .eventWordTooWide ∧
    decodeTable 8 0x100 = .error .addressByteTooWide := by decide

/-- The encodings of R13 and R23. -/
theorem test_state_bits : Phase.bit .awaitingAddress = 1 ∧ Phase.bit .inData = 0 ∧ Direction.bit .read = 0 ∧
    Direction.bit .write = 1 ∧ Verbosity.bit .addressOnly = 0 ∧ Verbosity.bit .full = 1 ∧
    Style.bit .plain = 0 ∧ Style.bit .annotated = 1 := by decide

/-! ## Well-formedness refuses -/

theorem test_wf_ok : cfgB.wf = true ∧ (wordPeriod 0x40000 10 18).wf cfgB = true ∧ (Instr.wf .sel) = true := by decide
theorem test_wf_tw_zero : ({ cfgB with tw := 0 } : Config).wf = false := by decide
theorem test_wf_table_order : NameTable.wf [(2, "a"), (1, "b")] = false := by decide
theorem test_wf_table_repeat : NameTable.wf [(1, "a"), (1, "b")] = false := by decide
theorem test_wf_table_range : NameTable.wf [(128, "a")] = false := by decide
theorem test_wf_table_in_config : ({ cfgB with nameTable := [(128, "a")] } : Config).wf = false := by decide
theorem test_wf_period_start : (wordPeriod 0x40000 65536 18).wf cfgB = false := by decide
theorem test_wf_period_end : (wordPeriod 0x40000 10 65536).wf cfgB = false := by decide
theorem test_wf_out_address_data : OutEvent.wf ⟨.address, 1, .read, some 0, 0, 0⟩ = false := by decide
theorem test_wf_out_read_dir : OutEvent.wf ⟨.read, 1, .write, some 0, 0, 0⟩ = false := by decide
theorem test_wf_out_read_data : OutEvent.wf ⟨.read, 1, .read, none, 0, 0⟩ = false := by decide
theorem test_wf_out_write_dir : OutEvent.wf ⟨.write, 1, .read, some 0, 0, 0⟩ = false := by decide
theorem test_wf_out_write_data : OutEvent.wf ⟨.write, 1, .write, none, 0, 0⟩ = false := by decide

/-! ## Steps: the vectors of 95_test_vectors.md part 2 -/

/-- V-SEL-1 -/
theorem test_sel : view (step (feeding (st cfgB .inData 0x12 .write) 0x40000)) =
    after .awaitingAddress 0x12 .write none := by decide
/-- V-SEL-4 -/
theorem test_sel_junk : view (step (feeding (st cfgB .inData 0x12 .write) 0x7FFFF)) =
    after .awaitingAddress 0x12 .write none := by decide
/-- V-OTH-3 -/
theorem test_othK0_cancels : view (step (feeding (st cfgB .awaitingAddress 0x05 .read) 0x00000)) =
    after .inData 0x05 .read none := by decide
/-- V-OTH-4 -/
theorem test_othK3_junk : view (step (feeding (st cfgB .awaitingAddress 0x05 .read) 0xFFFFF)) =
    after .inData 0x05 .read none := by decide
/-- V-ADR-4 -/
theorem test_xferA_top : view (step (feeding (st cfgB .awaitingAddress 0x33 .read) 0xBFF00)) =
    after .inData 0x7F .write (some (.address, 0x7F, .write, none)) := by decide
/-- V-ADR-8, from never-written registers, as the row -/
theorem test_xferA_row : view (exec (.xferA .read 0x55 (some 0xAA)) { fresh cfgB .awaitingAddress with tStart := 10, tEnd := 18 }) =
    after .inData 0x55 .read (some (.address, 0x55, .read, none)) := by decide
/-- V-ADR-6 -/
theorem test_xferADrop : view (step (feeding (st cfgB .awaitingAddress 0x33 .read) 0x90081)) =
    after .inData 0x33 .read none := by decide
/-- V-DAT-2 -/
theorem test_xferW : view (step (feeding (st cfgB .inData 0x01 .write) 0xBABCD)) =
    after .inData 0x02 .write (some (.write, 0x01, .write, some 0xAB)) := by decide
/-- V-INC-3: wrap 127 to 0, as the row -/
theorem test_xferW_wrap : view (exec (.xferW 0x5A (some 0x5A)) { st cfgB .inData 0x7F .write with tStart := 10, tEnd := 18 }) =
    after .inData 0x00 .write (some (.write, 0x7F, .write, some 0x5A)) := by decide
/-- V-DAT-3 -/
theorem test_xferWDrop : view (step (feeding (st cfgB .inData 0x01 .write) 0x900CD)) =
    after .inData 0x01 .write none := by decide
/-- V-DAT-4: the same word as V-DAT-2 in a read cycle -/
theorem test_xferR : view (step (feeding (st cfgB .inData 0x01 .read) 0xBABCD)) =
    after .inData 0x02 .read (some (.read, 0x01, .read, some 0xCD)) := by decide
/-- P3 step 5: FIFO hold at `0x7F` for Variant C, as the row -/
theorem test_xferR_hold : view (exec (.xferR 0x33 none) { st cfgC .inData 0x7F .read with tStart := 10, tEnd := 18 }) =
    after .inData 0x7F .read (some (.read, 0x7F, .read, some 0x33)) := by decide
/-- V-DAT-6 -/
theorem test_xferRDrop : view (step (feeding (st cfgB .inData 0x01 .read) 0xAAB00)) =
    after .inData 0x01 .read none := by decide
/-- V-AO-2 -/
theorem test_xferAO : view (step (feeding (st cfgAO .inData 0x01 .write) 0xBAB00)) =
    after .inData 0x01 .write none := by decide
/-- V-AO-4: no fault, no state is read -/
theorem test_xferAO_fresh : view (step (feeding (fresh cfgAO .inData) 0xB1234)) =
    some (.inData, none, none) := by decide
/-- R73 -/
theorem test_addrRd : view (step { (st cfgB .inData 0x33 .write).withFetchWord 8 0x01 with tStart := 0 }) =
    some (.inData, some (.read, 0x01), some ⟨.address, 0x01, .read, none, 0, 0⟩) := by decide
/-- R74 -/
theorem test_addrWr : view (step ((st cfgB .inData 0x33 .read).withFetchWord 8 0xFF)) =
    some (.inData, some (.write, 0x7F), some ⟨.address, 0x7F, .write, none, 0, 0⟩) := by decide
/-- V-INC-4: FIFO hold at `0x00` -/
theorem test_xfer_hold : view (step (feeding (st cfgB .inData 0x00 .write) 0xB5A5A)) =
    after .inData 0x00 .write (some (.write, 0x00, .write, some 0x5A)) := by decide
/-- V-RST-1, for which the spec advises a fault of the model: the step runs on what the registers hold (log 1), and
is told from every other. -/
theorem test_xfer_unwritten : ∀ d : Direction, ∃ t,
    step { feeding (fresh cfgB .inData) 0xB1234 with curAddr := 0x05, dir := d } = .next t ∧ t.unfounded = true ∧
      t.out.map OutEvent.addr = some 0x05 :=
  fun d => by cases d <;> exact ⟨_, rfl, by decide, by decide⟩
/-- V-RST-1 from the reset state itself: a next state, whatever the registers hold. -/
theorem test_reset_runs_xfer : ∃ t, step (State.reset.withFetchWord 24 0xB1234) = .next t := ⟨_, rfl⟩
/-- V-RST-5, its first period: reset in the same period as a `SEL` -/
theorem test_reset_ignores_event :
    view (step { st cfgB .awaitingAddress 0x12 .write with feed := [{ wordPeriod 0x40000 10 18 with rst := true }] }) =
      some (.inData, none, none) := by decide
/-- R61 -/
theorem test_idle : view (step { st cfgB .awaitingAddress 0x12 .write with feed := [emptyPeriod 0 0] }) =
    after .awaitingAddress 0x12 .write none := by decide
/-- The first step after reset runs a placed word. -/
theorem test_reset_runs_sel : view (step (State.reset.withFetchWord 24 0x40000)) =
    some (.awaitingAddress, none, none) := by decide

/-! ## Strings: V-REN -/

/-- V-REN-2, and the name of a listed address -/
theorem test_render_plain : render cfgB ⟨.write, 0x01, .write, some 0xAB, 10, 18⟩ =
    ⟨"write", ⟨"one", "Write", some "0xAB"⟩, 10, 18⟩ := by decide
/-- V-REN-1 -/
theorem test_render_plain_address : (render cfgB ⟨.address, 0x01, .write, none, 10, 18⟩).payload.displayValue = none := by
  decide
/-- V-REN-5, V-REN-10 -/
theorem test_render_tag : (render cfgC ⟨.address, 0x7F, .write, none, 10, 18⟩).payload =
    ⟨"absent", "Write", some "reg_0x7F"⟩ := by decide
/-- V-REN-7 -/
theorem test_render_annotated : (render cfgC ⟨.write, 0x7F, .write, some 0x41, 10, 18⟩).payload.displayValue =
    some "Write-> 0x41 = ASCII A" := by decide
/-- V-REN-8 -/
theorem test_render_annotated_read : (render cfgC ⟨.read, 0x02, .read, some 0x7A, 10, 18⟩).payload.displayValue =
    some "Read-> 0x7A = ASCII z" := by decide

/-- R106, at the ends of its ranges: a descriptor assigns `CHAR_OF` where it is open, and there only -/
theorem test_charOf : [0x00, 0x1F, 0x20, 0x7E, 0x7F, 0xFF].map (charOf (bindCharOf hex2 cfgC)) =
    ["00", "1F", " ", "~", "7F", "FF"] := by decide
/-- V-REN-9, with a string assigned to the open byte -/
theorem test_render_open : (render cfgC ⟨.read, 0x02, .read, some 0x00, 10, 18⟩).payload.displayValue =
    some "Read-> 0x00 = ASCII ?" := by decide

/-! ## Witnesses: the hypotheses of each statement are met together -/

/-- A written state of each phase and direction, and the periods the witnesses use. -/
def sA : State := st cfgB .awaitingAddress 0x33 .read
def sW : State := st cfgB .inData 0x01 .write
def sR : State := st cfgB .inData 0x01 .read
def sAO : State := st cfgAO .inData 0x01 .write
def sU : State := fresh cfgB .inData
def pSel : Period := wordPeriod 0x40000 0 9
def pAddr : Period := wordPeriod 0xB8100 10 18
def pNoAddr : Period := wordPeriod 0x90000 10 18
def pData : Period := wordPeriod 0xBABCD 20 28
def pOth : Period := wordPeriod 0x00000 30 38
def pOth3 : Period := wordPeriod 0xC0000 30 38
def pIdle : Period := emptyPeriod 0 0
def pRst : Period := { pSel with rst := true }
/-- A state with a feed. -/
def fed (s : State) (feed : List Period) : State := { s with feed := feed }

theorem witness_WordCarriesPortFields :
    (wordKind 0xB8100 = wordKind 0xB8100 ∧ wordKind 0xB8100 = 0b10 ∧ wordC2p 0xB8100 = wordC2p 0xB8100) ∧
    (wordKind 0x7FFFF = wordKind 0x40000 ∧ wordKind 0x7FFFF ≠ 0b10) ∧
    (wordKind 0x80000 = wordKind 0x8FFFF ∧ wordC2p 0x80000 = wordC2p 0x8FFFF ∧ wordP2c 0x80000 = wordP2c 0x8FFFF) := by
  decide
theorem witness_ExactlyOneRowApplies : (0x80000 : EventWord) &&& 0xC0000 = 0x80000 ∧
    (0xBFFFF : EventWord) &&& 0xC0000 = 0x80000 := by decide
theorem witness_EncodeThenDecode : Instr.wf (.xferW 0xFF (some 0)) = true ∧
    Instr.xferRow (.xferW 0xFF (some 0)) = some .w ∧ XferRow.holds .inData .full .write .w = true ∧
    XferRow.holds .awaitingAddress .addressOnly .read .a = true ∧ XferRow.holds .awaitingAddress .full .read .aDrop = true ∧
    XferRow.holds .inData .full .write .wDrop = true ∧ XferRow.holds .inData .full .read .r = true ∧
    XferRow.holds .inData .full .read .rDrop = true ∧ XferRow.holds .inData .addressOnly .read .ao = true := by
  decide
theorem witness_ResetPeriodIgnoresEvent : (fed sA [pRst, pAddr]).feed = pRst :: [pAddr] ∧ pRst.rst = true ∧
    pRst.evValid = true := by decide
theorem witness_NoEventNoChange : ((fed sA [pIdle, pAddr]).feed = pIdle :: [pAddr] ∧ pIdle.rst = false ∧
    pIdle.evValid = false) ∧ sA.feed = [] := by decide
theorem witness_StepRunsDecodedEvent : (fed sA [pAddr]).feed = pAddr :: [] ∧ pAddr.rst = false ∧ pAddr.evValid = true ∧
    decodeWord pAddr.word = .xfer (some 0x81) (some 0) ∧ Instr.wf (.xfer (some 0x81) (some 0)) = true := by decide
theorem witness_PlacedWordRunsNext : decodeTableWord 8 0xFF = some (.addrWr 0x7F) ∧
    decodeTableWord 9 0 = some .othK0 ∧ decodeTableWord 24 0xFFFFF = some .othK3 := by decide
theorem witness_SelSetsAwaitingAddress : (0x7FFFF : EventWord) &&& 0xC0000 = 0x40000 := by decide
theorem witness_OthSetsInData : (0x3FFFF : EventWord) &&& 0xC0000 = 0x00000 ∧
    (0xFFFFF : EventWord) &&& 0xC0000 = 0xC0000 := by decide
theorem witness_AddressByteAccepted : (0xBFF00 : EventWord) &&& 0xE0000 = 0xA0000 ∧ sA.phase = .awaitingAddress ∧
    (∃ t, exec (.xfer (some 1) none) sW = .next t ∧
      ¬ (sW.phase = .awaitingAddress ∧ Instr.kind (.xfer (some 1) none) = .dataExchange ∧
        (Instr.c2p (.xfer (some 1) none)).isSome = true)) :=
  ⟨by decide, by decide, _, rfl, by decide⟩
theorem witness_AddressByteStartsRead : (0x7F : Byte).getLsbD 7 = false ∧ sA.phase = .awaitingAddress := by decide
theorem witness_AddressByteStartsWrite : (0x80 : Byte).getLsbD 7 = true ∧ sA.phase = .awaitingAddress := by decide
theorem witness_AbsentAddressByteDropped : (0x90055 : EventWord) &&& 0xE0000 = 0x80000 ∧
    sA.phase = .awaitingAddress := by decide
theorem witness_UnreadByteHasNoEffect : sA.phase = .awaitingAddress ∧
    (sW.phase = .inData ∧ sW.dir = .write) ∧ (sR.phase = .inData ∧ sR.dir = .read) := by decide
theorem witness_AddressByteOperands : sA.phase = .awaitingAddress := by decide
theorem witness_VerbosityIgnoredInAddressPhase : sA.phase = .awaitingAddress ∧
    (fed sU [pSel, pAddr]).feed = pSel :: pAddr :: [] ∧
    pSel.isKind .selectAsserted = true ∧ pAddr.isAddressSlot = true := by decide
theorem witness_WriteDataByteReported : (0xBABCD : EventWord) &&& 0xE0000 = 0xA0000 ∧
    (sW.phase = .inData ∧ sW.cfg.verbosity = .full ∧ sW.dir = .write) ∧
    sW.curAddr ≠ sW.cfg.fifoAddr ∧ (st cfgC .inData 0x7F .write).curAddr = (st cfgC .inData 0x7F .write).cfg.fifoAddr := by
  decide
theorem witness_ReadDataByteReported : (0xBABCD : EventWord) &&& 0xD0000 = 0x90000 ∧
    (sR.phase = .inData ∧ sR.cfg.verbosity = .full ∧ sR.dir = .read) ∧
    sR.curAddr ≠ sR.cfg.fifoAddr ∧ (st cfgC .inData 0x7F .read).curAddr = (st cfgC .inData 0x7F .read).cfg.fifoAddr := by
  decide
theorem witness_AbsentWriteByteDropped : (0x90011 : EventWord) &&& 0xE0000 = 0x80000 ∧
    (sW.phase = .inData ∧ sW.cfg.verbosity = .full ∧ sW.dir = .write) := by decide
theorem witness_AbsentReadByteDropped : (0xA0000 : EventWord) &&& 0xD0000 = 0x80000 ∧
    (sR.phase = .inData ∧ sR.cfg.verbosity = .full ∧ sR.dir = .read) := by decide
theorem witness_AddressOnlyDataPhaseIsQuiet : (0xBABCD : EventWord) &&& 0xC0000 = 0x80000 ∧
    (sAO.phase = .inData ∧ sAO.cfg.verbosity = .addressOnly) ∧
    (fresh cfgAO .inData).phase = .inData ∧ (fresh cfgAO .inData).written = false := by decide
theorem witness_RowsMeanTheirEvent : Instr.kind (.xferW 0 none) = .dataExchange ∧
    Instr.kind (.addrRd 0) = .dataExchange := by decide
theorem witness_UnwrittenReadIsTold :
    (∃ t, exec (.xferR 0 none) { sU with dir := .read } = .next t ∧ t.unfounded = true) ∧
    (∃ t, exec (.xferR 0 none) sR = .next t ∧ t.unfounded = false) ∧
    Instr.kind (.xferR 0 none) = .dataExchange ∧ sU.phase = .inData ∧ sU.cfg.verbosity = .full ∧ sU.written = false :=
  ⟨⟨_, rfl, by decide⟩, ⟨_, rfl, by decide⟩, by decide⟩
theorem witness_StepNeverStops : (fed sU [pData]).undefinedNext = true ∧
    (fed sW [pData]).undefinedNext = false ∧ (fed sU [pSel]).undefinedNext = false := by decide
theorem witness_UnwrittenValuesAreUnobservable : (fed sU [pSel]).undefinedNext = false ∧
    (fed (fresh cfgB .awaitingAddress) [pNoAddr]).undefinedNext = false := by decide
theorem witness_DroppedEventLeavesRegisters :
    (∃ t, exec (.xferADrop none) sA = .next t ∧ t.drop = some .addrByteAbsent) ∧
    (∃ t, exec (.xferWDrop none) sW = .next t ∧ t.drop = some .dataByteAbsent) ∧
    (∃ t, exec (.xferRDrop none) sR = .next t ∧ t.drop = some .dataByteAbsent) :=
  ⟨⟨_, rfl, by decide⟩, ⟨_, rfl, by decide⟩, ⟨_, rfl, by decide⟩⟩
theorem witness_PhaseRecordsKind : (∃ t, exec .sel sW = .next t ∧ t.phase = .awaitingAddress) ∧
    (∃ t, exec (.xferADrop none) sA = .next t ∧ t.phase = .inData) := ⟨⟨_, rfl, by decide⟩, ⟨_, rfl, by decide⟩⟩
theorem witness_EmittingStepsAreExactlyAccepted :
    (pIdle.isEvent = false ∧ ∃ t, step (fed sW [pIdle]) = .next t) ∧ sW.feed = [] ∧
    (∃ t, exec .othK0 sW = .next t ∧ Instr.kind .othK0 ≠ .dataExchange) ∧
    (∃ t r, exec (.xfer (some 0x81) none) sA = .next t ∧ t.out = some r ∧ r.cat = .address) ∧
    (∃ t r, exec (.xfer none (some 0xCD)) sR = .next t ∧ t.out = some r ∧ r.cat = .read) :=
  ⟨⟨by decide, _, rfl⟩, by decide, ⟨_, rfl, by decide⟩, ⟨_, _, rfl, rfl, by decide⟩, ⟨_, _, rfl, rfl, by decide⟩⟩
theorem witness_CurrentAddressUpdate :
    (∃ t, exec (.xfer (some 0xFF) none) sA = .next t ∧ Instr.kind (.xfer (some 0xFF) none) = .dataExchange ∧
      sA.phase = .awaitingAddress) ∧
    (∃ t, exec (.xfer (some 0) none) sW = .next t ∧ sW.phase = .inData ∧ t.out.isSome = true) ∧
    (∃ t, exec (.xfer none none) sW = .next t ∧ t.out = none) :=
  ⟨⟨_, rfl, by decide⟩, ⟨_, rfl, by decide⟩, ⟨_, rfl, by decide⟩⟩
theorem witness_ParametersNeverChange : ∃ t, step (fed sW [pData]) = .next t := ⟨_, rfl⟩
theorem witness_AddressOnlyEmitsOnlyAddresses : sAO.cfg.verbosity = .addressOnly ∧
    (outputs 3 (fed sAO [pSel, pAddr, pData])).length = 1 := by decide
theorem witness_DirectionFixedWithinCycle : sW.phase = .inData ∧
    ((fed sW [pData, pOth, pData, pSel]).feed.take 3).all (fun p => !p.rst && !p.isKind .selectAsserted) = true ∧
    (outputs 3 (fed sW [pData, pOth, pData, pSel])).length = 2 ∧
    (∃ t, runAlone 3 (.next (fed sW [pData, pOth, pData, pSel])) = .next t) :=
  ⟨by decide, by decide, by decide, _, rfl⟩
theorem witness_FifoHoldsUntilAddressByte :
    (let s := fed (st cfgB .inData 0x00 .write) [pData, pData]
     s.phase = .inData ∧ s.curAddr = s.cfg.fifoAddr ∧
      (s.feed.take 2).all (fun p => !p.rst && !p.isKind .selectAsserted) = true ∧ ∃ t, runAlone 2 (.next s) = .next t) ∧
    (let s := st cfgB .awaitingAddress 0x00 .read
     ∃ t, exec (.xfer (some 0x81) none) s = .next t ∧ s.curAddr = s.cfg.fifoAddr ∧ t.curAddr ≠ s.cfg.fifoAddr) :=
  ⟨⟨by decide, by decide, by decide, _, rfl⟩, _, rfl, by decide, by decide⟩
theorem witness_BurstAddressClosedForm : 127 ≤ 127 ∧
    (2 ≤ ((0x7F : Addr) - 0x7D).toNat ∧ burstAddr 0x7F 0x7D 2 = 0x7F ∧ burstAddr 0x7F 0x7D 3 = 0x7F) ∧
    burstAddr 0x00 0x7F 1 = 0x00 := by decide
theorem witness_WholeCycleReported :
    (fed sW [pSel, pAddr, pData, pData, pOth]).feed = pSel :: pAddr :: ([pData, pData] ++ [pOth]) ∧
    sW.cfg.verbosity = .full ∧ pSel.isKind .selectAsserted = true ∧ pAddr.isAddressSlot = true ∧
    (∀ p ∈ [pData, pData], p.isSlot (byteDir pAddr.c2p) = true) := by decide
theorem witness_RecoversAtNextCycle : (fed sU [pSel, pAddr]).feed = pSel :: pAddr :: [] ∧
    pSel.isKind .selectAsserted = true ∧ pAddr.isAddressSlot = true := by decide
theorem witness_ProperStreamIsFounded :
    (noReset (fed sU [pIdle, pSel, pIdle, pAddr, pData]).feed = true ∧
      opensProperly (fed sU [pIdle, pSel, pIdle, pAddr, pData]).feed = true) ∧
    (noReset (fed sW [pData]).feed = true ∧ opensProperly (fed sW [pData]).feed = false ∧ sW.written = true) := by decide
theorem witness_LostAddressByteReportsStaleCycle :
    (sA.phase = .awaitingAddress ∧ sA.cfg.verbosity = .full) ∧
    (pNoAddr.isKind .dataExchange = true ∧ pNoAddr.c2pValid = false) ∧ pOth.isKind .other0 = true ∧
    pOth3.isKind .other3 = true ∧ pData.isKind .dataExchange = true ∧ pData.slotByte sA.dir = some 0xCD := by decide
theorem witness_TwoKindStreamKeepsAddressPhase :
    (noOtherKinds (fed sA [pIdle, pAddr]).feed = true ∧ pIdle.rst = false ∧ pIdle.isKind .dataExchange = false) ∧
    (noOtherKinds (fed sA [pSel, pAddr]).feed = true ∧ pSel.rst = false ∧ pSel.isKind .dataExchange = false) ∧
    sA.phase = .awaitingAddress := by decide
theorem witness_BytesPresentEveryExchangeEmits : bytesPresent (fed sW [pData]).feed = true ∧
    pData.isKind .dataExchange = true ∧ sW.cfg.verbosity = .full ∧ sW.written = true ∧
    (fresh cfgB .awaitingAddress).phase = .awaitingAddress := by decide
theorem witness_DataByteReachesOnlyItsEvent :
    (sW.phase = .inData ∧ selectByte sW.dir (some 0x00) none = some 0x00 ∧
      selectByte sW.dir (some 0xFF) (some 0x12) = some 0xFF) ∧
    (let q := wordPeriod 0xA0000 20 28
     pData.isSlot sW.dir = true ∧ q.isSlot sW.dir = true ∧ pData.tStart = q.tStart ∧ pData.tEnd = q.tEnd ∧
      (∃ t u, step { sW with feed := pData :: [pData] } = .next t ∧ step { sW with feed := q :: [pData] } = .next u ∧
        t ≠ u)) :=
  ⟨by decide, by decide, by decide, by decide, by decide, _, _, rfl, rfl, fun h => by
    have := congrArg State.out h
    revert this; decide⟩
theorem witness_ResetSatisfiesInvariant : cfgB.wf = true := by decide
theorem witness_StepKeepsInvariant : ∃ t, (fed sW [pData]).Inv ∧ step (fed sW [pData]) = .next t :=
  ⟨_, { cfgWf := by decide, feedWf := by decide, stampsFit := by decide, output := fun r h => nomatch h
        unwritten := fun h => nomatch h }, rfl⟩
theorem witness_IgnoredInputBitsHaveNoEffect :
    let p := { pNoAddr with c2p := 0xFF }
    p ≠ pNoAddr ∧ p.rst = pNoAddr.rst ∧ p.evValid = pNoAddr.evValid ∧ p.tStart = pNoAddr.tStart ∧
      p.tEnd = pNoAddr.tEnd ∧ p.kind = pNoAddr.kind ∧ p.kind = 0b10 ∧
      optByte p.c2pValid p.c2p = optByte pNoAddr.c2pValid pNoAddr.c2p ∧
      optByte p.p2cValid p.p2c = optByte pNoAddr.p2cValid pNoAddr.p2c := by decide
theorem witness_NameLookupIsEntryOrSentinel : cfgB.nameTable.entry 0x01 = some "one" ∧
    cfgB.nameTable.entry 0x02 = none ∧ NameTable.wf cfgB.nameTable = true := by decide
/-- A table with every address, read entry by entry: the one lemma is `entry` on a listed range. -/
theorem entry_of_range (n : Nat) : ∀ (low : Nat) (a : Addr), low ≤ a.toNat → a.toNat < low + n →
    (NameTable.entry ((List.range' low n).map fun k => (k, "named")) a).isSome = true := by
  induction n with
  | zero => intro low a h1 h2; omega
  | succ n ih =>
    intro low a h1 h2
    rw [List.range'_succ, List.map_cons, NameTable.entry]
    split
    · rfl
    · exact ih (low + 1) a (by omega) (by omega)
theorem witness_AnyMapIsATable :
    tableTotal { cfgB with nameTable := (List.range' 0 128).map fun k => (k, "named") } :=
  fun a => entry_of_range 128 0 a (by omega) (by omega)
theorem witness_HexAndCharStrings : (0x20 ≤ (0x20 : Byte).toNat ∧ (0x7E : Byte).toNat ≤ 0x7E) ∧
    (0x1F : Byte).toNat < 0x20 ∧ 0x7E < (0x7F : Byte).toNat := by decide
theorem witness_DisplayValueByStyle : OutEvent.wf ⟨.address, 1, .read, none, 0, 0⟩ = true ∧
    OutEvent.wf ⟨.read, 1, .read, some 0, 0, 0⟩ = true ∧ OutEvent.wf ⟨.write, 1, .write, some 0, 0, 0⟩ = true ∧
    cfgB.style = .plain ∧ cfgC.style = .annotated := by decide
theorem witness_OutputPortsCarryTheRecord :
    (∃ t, step (fed sW [pData]) = .next t ∧ t.outValid = true ∧ t.out.isSome = true) ∧
    (pIdle.isEvent = false ∧ ∃ t, step (fed sW [pIdle]) = .next t) ∧
    (pRst.isEvent = false ∧ ∃ t, step (fed sW [pRst]) = .next t) :=
  ⟨⟨_, rfl, by decide⟩, ⟨by decide, _, rfl⟩, ⟨by decide, _, rfl⟩⟩

end Sys2Proof.Tests
end

section
/-! PROOFS. What one period does, told by the period alone. Which of four operations a period runs depends on its ports
and not on the state (R43, R128), so that a claim about every step is one claim about each of the four. -/

namespace Sys2Proof.Machine

/-! ## The event on the input ports -/

/-- An event of another kind than data exchange records its kind and has no output (R64, R65). -/
theorem exec_fetchInstr_quiet {p : Period} (s : State) (h : kindOfBits p.kind ≠ .dataExchange) :
    exec (fetchInstr p) s = .next (noOutput (recordKind (kindOfBits p.kind) s)) := by
  simp only [fetchInstr, decodeWord, Period.word, wordKind_packWord]
  cases hk : kindOfBits p.kind with
  | dataExchange => exact absurd hk h
  | other0 => rfl
  | selectAsserted => rfl
  | other3 => rfl

/-- A data-exchange event runs the step of R62 on its two optional bytes (R47). -/
theorem exec_fetchInstr_exchange {p : Period} (s : State) (h : kindOfBits p.kind = .dataExchange) :
    exec (fetchInstr p) s = .next (exchange (optByte p.c2pValid p.c2p) (optByte p.p2cValid p.p2c) s) := by
  simp only [fetchInstr, decodeWord, Period.word, wordKind_packWord, wordC2p_packWord, wordP2c_packWord, h]
  rfl

/-! ## The period -/

theorem isEvent_iff (p : Period) : p.isEvent = true ↔ p.rst = false ∧ p.evValid = true := by
  simp [Period.isEvent]

theorem isKind_iff (k : Kind) (p : Period) : p.isKind k = true ↔ p.isEvent = true ∧ kindOfBits p.kind = k := by
  simp [Period.isKind]

/-- Everything a period can be: a reset, idle, an event that has no output, or a data exchange; and what it then makes
of every state. -/
theorem runPeriod_cases (p : Period) :
    (p.rst = true ∧ ∀ s, runPeriod p s = .next (takeReset s)) ∨
    (p.rst = false ∧ p.evValid = false ∧ ∀ s, runPeriod p s = .next (noOutput s)) ∨
    (p.isEvent = true ∧ kindOfBits p.kind ≠ .dataExchange ∧
      ∀ s, runPeriod p s = .next (noOutput (recordKind (kindOfBits p.kind) s))) ∨
    (p.isKind .dataExchange = true ∧
      ∀ s, runPeriod p s = .next (exchange (optByte p.c2pValid p.c2p) (optByte p.p2cValid p.p2c) s)) := by
  cases hr : p.rst with
  | true => exact .inl ⟨rfl, fun s => runPeriod_reset s hr⟩
  | false =>
    cases he : p.evValid with
    | false => exact .inr (.inl ⟨rfl, rfl, fun s => runPeriod_idle s hr he⟩)
    | true =>
      have hev : p.isEvent = true := (isEvent_iff p).2 ⟨hr, he⟩
      by_cases hk : kindOfBits p.kind = .dataExchange
      · exact .inr (.inr (.inr ⟨(isKind_iff _ p).2 ⟨hev, hk⟩,
          fun s => (runPeriod_event s hr he).trans (exec_fetchInstr_exchange s hk)⟩))
      · exact .inr (.inr (.inl ⟨hev, hk, fun s => (runPeriod_event s hr he).trans (exec_fetchInstr_quiet s hk)⟩))

/-- A step is a period without anything delivered, or runs the first period of the feed. -/
theorem step_feed_cases {s t : State} (h : step s = .next t) :
    (s.feed = [] ∧ t = noOutput s) ∨
    (∃ p rest, s.feed = p :: rest ∧ runPeriod p (presentPeriod p rest s) = .next t) := by
  cases hf : s.feed with
  | nil => exact .inl ⟨rfl, Host.Outcome.next.inj (h.symm.trans (step_nil hf))⟩
  | cons p rest => exact .inr ⟨p, rest, rfl, (step_cons hf).symm.trans h⟩

end Sys2Proof.Machine
end

section
/-! PROOFS. 10_state.md, the parameters (R23): no operation writes the field `cfg`. -/

namespace Sys2Proof.Machine

@[simp] theorem exchange_cfg (c p : Option Byte) (s : State) : (exchange c p s).cfg = s.cfg := by
  obtain ⟨-, -, e⟩ | ⟨b, -, -, e⟩ | ⟨-, -, e⟩ | ⟨-, -, -, e⟩ | ⟨b, -, -, -, e⟩ :=
    exchange_cases c p s <;> simp [e]

theorem runPeriod_cfg {p : Period} {s t : State} (h : runPeriod p s = .next t) : t.cfg = s.cfg := by
  obtain ⟨-, e⟩ | ⟨-, -, e⟩ | ⟨-, -, e⟩ | ⟨-, e⟩ := runPeriod_cases p <;>
    obtain rfl := Host.Outcome.next.inj ((e s).symm.trans h) <;> simp

/-- Settles O37: the period that a step runs keeps the parameters, and putting it on the ports does too. -/
theorem parametersNeverChange : Obligations.ParametersNeverChange := by
  intro s t h
  obtain ⟨-, rfl⟩ | ⟨p, rest, -, hp⟩ := step_feed_cases h
  · rfl
  · calc t.cfg = (presentPeriod p rest s).cfg := runPeriod_cfg hp
      _ = s.cfg := presentPeriod_cfg p rest s

end Sys2Proof.Machine
end

section
/-! PROOFS. 10_state.md, the output is no state (R20): a step from a state whose old output is taken away by
`noOutput` is the step itself, since every operation that ends a period writes `out` and `drop` and none reads them. -/

namespace Sys2Proof.Machine

theorem addressArm_noOutput (c : Option Byte) (s : State) : addressArm c (noOutput s) = addressArm c s := by
  cases c <;> rfl

theorem dataArm_noOutput (c p : Option Byte) (s : State) : dataArm c p (noOutput s) = dataArm c p s := by
  cases hv : s.cfg.verbosity with
  | addressOnly => rw [dataArm_addressOnly c p hv, dataArm_addressOnly (s := noOutput s) c p hv]; rfl
  | full =>
    cases hb : selectByte s.dir c p with
    | none => rw [dataArm_absent hv hb, dataArm_absent (s := noOutput s) hv hb]; rfl
    | some b => rw [dataArm_present hv hb, dataArm_present (s := noOutput s) hv hb]; rfl

theorem exchange_noOutput (c p : Option Byte) (s : State) : exchange c p (noOutput s) = exchange c p s := by
  cases hp : s.phase with
  | awaitingAddress =>
    rw [exchange_awaiting c p hp, exchange_awaiting (s := noOutput s) c p hp]
    exact addressArm_noOutput c (recordKind .dataExchange s)
  | inData =>
    rw [exchange_inData c p hp, exchange_inData (s := noOutput s) c p hp]
    exact dataArm_noOutput c p (recordKind .dataExchange s)

theorem runPeriod_noOutput (p : Period) (s : State) : runPeriod p (noOutput s) = runPeriod p s := by
  obtain ⟨-, e⟩ | ⟨-, -, e⟩ | ⟨-, -, e⟩ | ⟨-, e⟩ := runPeriod_cases p <;> rw [e, e]
  · rfl
  · rfl
  · rfl
  · rw [exchange_noOutput]

theorem step_noOutput (s : State) : step (noOutput s) = step s := by
  cases hf : s.feed with
  | nil => rw [step_nil hf, step_nil (s := noOutput s) hf]; rfl
  | cons p rest =>
    rw [step_cons hf, step_cons (s := noOutput s) hf]
    exact runPeriod_noOutput p (presentPeriod p rest s)

/-- Settles O32: `noOutput` makes the two states one, and does not change their steps. -/
theorem pastOutputIsNeverRead : Obligations.PastOutputIsNeverRead := by
  intro s o d
  calc step { s with out := o, drop := d }
      = step (noOutput { s with out := o, drop := d }) := (step_noOutput _).symm
    _ = step (noOutput s) := rfl
    _ = step s := step_noOutput s

end Sys2Proof.Machine
end

section
/-! PROOFS. 10_state.md, registers that no address byte has written (R25): `State.refill` passes through every
operation that does not read them, a reset and an accepted address byte write over it, and the data arm in full
decode, which reads them, runs on unwritten contents only in the condition of R124. -/

namespace Sys2Proof.Machine

section Refill
variable (a : Addr) (w : Direction) (s : State)

theorem refill_of_written {s : State} (h : s.written = true) : s.refill a w = s := by simp [State.refill, h]

theorem refill_of_unwritten {s : State} (h : s.written = false) :
    s.refill a w = { s with curAddr := a, dir := w } := by simp [State.refill, h]

/-! ### Fields that a refill keeps -/

@[simp] theorem refill_phase : (s.refill a w).phase = s.phase := by cases h : s.written <;> simp [State.refill, h]
@[simp] theorem refill_written : (s.refill a w).written = s.written := by
  cases h : s.written <;> simp [State.refill, h]
@[simp] theorem refill_cfg : (s.refill a w).cfg = s.cfg := by cases h : s.written <;> simp [State.refill, h]
@[simp] theorem refill_feed : (s.refill a w).feed = s.feed := by cases h : s.written <;> simp [State.refill, h]

@[simp] theorem refill_refill : (s.refill a w).refill a w = s.refill a w := by
  cases h : s.written <;> simp [State.refill, h]

/-! ### Operations that a refill passes through -/

theorem recordKind_refill (k : Kind) : recordKind k (s.refill a w) = (recordKind k s).refill a w := by
  cases h : s.written <;> simp [State.refill, recordKind, h]

theorem noOutput_refill : noOutput (s.refill a w) = (noOutput s).refill a w := by
  cases h : s.written <;> simp [State.refill, noOutput, h]

theorem dropEvent_refill (site : DropSite) : dropEvent site (s.refill a w) = (dropEvent site s).refill a w := by
  cases h : s.written <;> simp [State.refill, dropEvent, h]

theorem presentPeriod_refill (p : Period) (rest : List Period) :
    presentPeriod p rest (s.refill a w) = (presentPeriod p rest s).refill a w := by
  cases h : s.written <;> simp [State.refill, presentPeriod, h]

/-! ### Operations that write over a refill -/

theorem takeReset_refill : takeReset (s.refill a w) = takeReset s := by
  cases h : s.written <;> simp [State.refill, takeReset, h]

theorem addressArm_present_refill (b : Byte) :
    addressArm (some b) (s.refill a w) = addressArm (some b) s := by
  cases h : s.written <;> simp [State.refill, addressArm, emit, addressEvent, writeAddress, h]

/-! ### The exchange and the period -/

/-- The two contents reach the outcome of an exchange only where R124's condition holds; everywhere else they are
still in place after it, or overwritten. -/
theorem exchange_refill (c p : Option Byte)
    (h : s.phase = .inData → s.cfg.verbosity = .full → s.written = true) :
    (exchange c p (s.refill a w)).refill a w = (exchange c p s).refill a w := by
  cases hp : s.phase with
  | awaitingAddress =>
    rw [exchange_awaiting c p hp, exchange_awaiting (s := s.refill a w) c p (by simpa using hp), recordKind_refill]
    cases c with
    | none => simp only [addressArm, dropEvent_refill, refill_refill]
    | some b => rw [addressArm_present_refill]
  | inData =>
    cases hv : s.cfg.verbosity with
    | addressOnly =>
      rw [exchange_inData c p hp, exchange_inData (s := s.refill a w) c p (by simpa using hp), recordKind_refill,
        dataArm_addressOnly c p (by simpa using hv), dataArm_addressOnly c p (by simpa using hv), noOutput_refill,
        refill_refill]
    | full => rw [refill_of_written a w (h hp hv)]

theorem runPeriod_refill (p : Period)
    (h : p.isKind .dataExchange = true → s.phase = .inData → s.cfg.verbosity = .full → s.written = true) :
    mapNext (State.refill a w) (runPeriod p (s.refill a w)) = mapNext (State.refill a w) (runPeriod p s) := by
  obtain ⟨-, e⟩ | ⟨-, -, e⟩ | ⟨-, -, e⟩ | ⟨hk, e⟩ := runPeriod_cases p <;>
    rw [e, e] <;> simp only [mapNext]
  · rw [takeReset_refill]
  · rw [noOutput_refill, refill_refill]
  · rw [recordKind_refill, noOutput_refill, refill_refill]
  · rw [exchange_refill a w s _ _ (h hk)]

end Refill

/-- What it means that the next step does not meet R124's condition. -/
theorem written_of_undefinedNext_false {s : State} {p : Period} {rest : List Period} (hf : s.feed = p :: rest)
    (h : s.undefinedNext = false) (hk : p.isKind .dataExchange = true) (hp : s.phase = .inData)
    (hv : s.cfg.verbosity = .full) : s.written = true := by
  simpa [State.undefinedNext, hf, hk, hp, hv] using h

/-- Settles O53: the period that the step runs does not tell the refilled state from the other. -/
theorem unwrittenValuesAreUnobservable : Obligations.UnwrittenValuesAreUnobservable := by
  intro s a w h
  cases hf : s.feed with
  | nil =>
    rw [step_nil hf, step_nil (s := s.refill a w) (by simpa using hf)]
    simp only [idlePeriod, mapNext, noOutput_refill, refill_refill]
  | cons p rest =>
    rw [step_cons hf, step_cons (s := s.refill a w) (by simpa using hf), presentPeriod_refill]
    exact runPeriod_refill a w (presentPeriod p rest s) p (written_of_undefinedNext_false (s := s) hf h)

end Sys2Proof.Machine
end

section
/-! PROOFS. 10_state.md, the invariant (R21): `(noOutput s).Inv` is the invariant without its clause on the output. It
holds of the state that a period is run on, whose old output no longer carries the timestamps in hand, and every
operation that ends a period turns it into the whole invariant. -/

namespace Sys2Proof.Machine

/-- The invariant is what it is without an output, and that the output is explained. -/
theorem inv_of_noOutput {s : State} (h : (noOutput s).Inv) (ho : ∀ r, s.out = some r → s.outputExplained r) :
    s.Inv :=
  ⟨h.cfgWf, h.feedWf, h.stampsFit, ho, h.unwritten⟩

theorem inv_of_out_none {s : State} (h : (noOutput s).Inv) (ho : s.out = none) : s.Inv :=
  inv_of_noOutput h fun r hr => by simp [ho] at hr

theorem noOutput_inv {s : State} (h : s.Inv) : (noOutput s).Inv :=
  ⟨h.cfgWf, h.feedWf, h.stampsFit, fun r hr => by simp at hr, h.unwritten⟩

/-! ## The state that a period is run on -/

theorem noOutput_presentPeriod_inv {s : State} {p : Period} {rest : List Period} (h : s.Inv) (hf : s.feed = p :: rest) :
    (noOutput (presentPeriod p rest s)).Inv := by
  have hw := h.feedWf
  rw [hf, List.all_cons, Bool.and_eq_true] at hw
  obtain ⟨hp, hrest⟩ := hw
  refine ⟨h.cfgWf, hrest, ?_, fun r hr => by simp at hr, h.unwritten⟩
  simpa [Period.wf] using hp

theorem noOutput_recordKind_inv {s : State} (k : Kind) (h : (noOutput s).Inv) : (noOutput (recordKind k s)).Inv :=
  ⟨h.cfgWf, h.feedWf, h.stampsFit, fun r hr => by simp at hr, h.unwritten⟩

/-! ## The operations that end a period -/

theorem takeReset_inv {s : State} (h : (noOutput s).Inv) : (takeReset s).Inv :=
  ⟨h.cfgWf, h.feedWf, h.stampsFit, fun r hr => by simp at hr, fun _ => rfl⟩

theorem dropEvent_inv {s : State} (site : DropSite) (h : (noOutput s).Inv) : (dropEvent site s).Inv :=
  inv_of_out_none h rfl

theorem dataEvent_wf (w : Direction) (d : Byte) (s : State) : (dataEvent w d s).wf = true := by
  cases w <;> rfl

theorem dataEvent_cat_ne_address (w : Direction) (d : Byte) (s : State) : (dataEvent w d s).cat ≠ .address := by
  cases w <;> exact nofun

/-- An accepted address byte: its event has the direction and the address that the same step writes (R50, R77). -/
theorem acceptAddress_inv {s : State} (w : Direction) (a : Addr) (h : (noOutput s).Inv) :
    (emit (addressEvent w a s) (writeAddress w a (recordKind .dataExchange s))).Inv where
  cfgWf := h.cfgWf
  feedWf := h.feedWf
  stampsFit := h.stampsFit
  output := by
    intro r hr
    obtain rfl := Option.some.inj hr
    exact ⟨rfl, rfl, rfl, rfl, rfl, rfl, fun _ => ⟨rfl, rfl⟩, fun hc => absurd rfl hc⟩
  unwritten := fun hw => by simp at hw

/-- An accepted data byte: its event has the held direction and the address before the increment (R85, R86). -/
theorem acceptData_inv {s : State} (d : Byte) (h : (noOutput s).Inv) (hv : s.cfg.verbosity = .full) :
    (autoIncrement (emit (dataEvent s.dir d s) (recordKind .dataExchange s))).Inv where
  cfgWf := h.cfgWf
  feedWf := h.feedWf
  stampsFit := h.stampsFit
  output := by
    intro r hr
    obtain rfl := Option.some.inj hr
    exact ⟨dataEvent_wf _ _ _, rfl, rfl, rfl, rfl, rfl, fun hc => absurd hc (dataEvent_cat_ne_address _ _ _),
      fun _ => ⟨hv, rfl⟩⟩
  unwritten := h.unwritten

theorem exchange_inv {s : State} (c p : Option Byte) (h : (noOutput s).Inv) : (exchange c p s).Inv := by
  obtain ⟨-, -, e⟩ | ⟨b, -, -, e⟩ | ⟨-, -, e⟩ | ⟨-, -, -, e⟩ | ⟨b, -, hv, -, e⟩ :=
    exchange_cases c p s <;> rw [e]
  · exact dropEvent_inv _ (noOutput_recordKind_inv _ h)
  · exact acceptAddress_inv _ _ h
  · exact noOutput_recordKind_inv _ h
  · exact dropEvent_inv _ (noOutput_recordKind_inv _ h)
  · exact acceptData_inv b h hv

theorem runPeriod_inv {p : Period} {s t : State} (h : (noOutput s).Inv) (ht : runPeriod p s = .next t) : t.Inv := by
  obtain ⟨-, e⟩ | ⟨-, -, e⟩ | ⟨-, -, e⟩ | ⟨-, e⟩ := runPeriod_cases p <;>
    obtain rfl := Host.Outcome.next.inj ((e s).symm.trans ht)
  · exact takeReset_inv h
  · exact h
  · exact noOutput_recordKind_inv _ h
  · exact exchange_inv _ _ h

/-- Settles O50: the invariant without its output clause holds of the state with the period on the ports, and the
period gives back the whole. -/
theorem stepKeepsInvariant : Obligations.StepKeepsInvariant := by
  intro s t h ht
  obtain ⟨-, rfl⟩ | ⟨p, rest, hf, hp⟩ := step_feed_cases ht
  · exact noOutput_inv h
  · exact runPeriod_inv (noOutput_presentPeriod_inv h hf) hp

end Sys2Proof.Machine
end

section
/-! PROOFS. 20_memory.md, no copy of a register's contents (R30): a data byte reaches the output of its own step, where
`State.replaceData` puts the other one, and the output is no state (R20). -/

namespace Sys2Proof.Machine

/-! ## The step that reads the byte -/

theorem dataArm_replaceData {c p c' p' : Option Byte} {s : State} {d d' : Byte}
    (hd : selectByte s.dir c p = some d) (hd' : selectByte s.dir c' p' = some d') :
    dataArm c' p' s = (dataArm c p s).replaceData d' := by
  cases hv : s.cfg.verbosity with
  | addressOnly => rw [dataArm_addressOnly c p hv, dataArm_addressOnly c' p' hv]; rfl
  | full => rw [dataArm_present hv hd, dataArm_present hv hd']; rfl

theorem exchange_replaceData {c p c' p' : Option Byte} {s : State} {d d' : Byte} (hp : s.phase = .inData)
    (hd : selectByte s.dir c p = some d) (hd' : selectByte s.dir c' p' = some d') :
    exchange c' p' s = (exchange c p s).replaceData d' := by
  rw [exchange_inData c p hp, exchange_inData c' p' hp]
  exact dataArm_replaceData (s := recordKind .dataExchange s) hd hd'

theorem runPeriod_exchange {p : Period} (s : State) (h : p.isKind .dataExchange = true) :
    runPeriod p s = .next (exchange (optByte p.c2pValid p.c2p) (optByte p.p2cValid p.p2c) s) := by
  obtain ⟨he, hk⟩ := (isKind_iff _ p).1 h
  obtain ⟨hr, hv⟩ := (isEvent_iff p).1 he
  exact (runPeriod_event s hr hv).trans (exec_fetchInstr_exchange s hk)

theorem isSlot_iff (w : Direction) (p : Period) :
    p.isSlot w = true ↔ p.isKind .dataExchange = true ∧ ∃ d, p.slotByte w = some d := by
  simp [Period.isSlot, Option.isSome_iff_exists]

/-- Of a period on the ports the state holds the timestamps alone. -/
theorem presentPeriod_congr {p q : Period} (h0 : p.tStart = q.tStart) (h1 : p.tEnd = q.tEnd)
    (rest feed feed' : List Period) (s : State) :
    presentPeriod q rest { s with feed := feed' } = presentPeriod p rest { s with feed := feed } := by
  simp only [presentPeriod, h0, h1]

theorem step_slot_replaceData {s : State} {p q : Period} (rest : List Period) (hs : s.phase = .inData)
    (hp : p.isSlot s.dir = true) (hq : q.isSlot s.dir = true) (h0 : p.tStart = q.tStart) (h1 : p.tEnd = q.tEnd) :
    ∃ d, step { s with feed := q :: rest } = mapNext (State.replaceData d) (step { s with feed := p :: rest }) := by
  obtain ⟨hkp, d, hd⟩ := (isSlot_iff _ p).1 hp
  obtain ⟨hkq, d', hd'⟩ := (isSlot_iff _ q).1 hq
  refine ⟨d', ?_⟩
  rw [step_cons rfl, step_cons rfl, presentPeriod_congr h0 h1, runPeriod_exchange _ hkp, runPeriod_exchange _ hkq]
  exact congrArg Host.Outcome.next (exchange_replaceData (s := presentPeriod p rest _) hs hd hd')

/-! ## The steps after it -/

theorem outputs_noOutput (k : Nat) (s : State) : outputs k (noOutput s) = outputs k s := by
  cases k with
  | zero => rfl
  | succ k => rw [outputs, outputs, step_noOutput]

theorem outputs_replaceData (k : Nat) (d : Byte) (s : State) : outputs k (s.replaceData d) = outputs k s := by
  rw [← outputs_noOutput k s, ← outputs_noOutput k (s.replaceData d)]
  rfl

/-- Settles O48: the two states after the exchange differ in the byte of the output, and a run does not read the output
that it starts with. -/
theorem dataByteReachesOnlyItsEvent : Obligations.DataByteReachesOnlyItsEvent := by
  refine ⟨fun s c p c' p' d d' hs hd hd' => congrArg Host.Outcome.next (exchange_replaceData hs hd hd'), ?_⟩
  intro s p q rest t u k hs hp hq h0 h1 ht hu
  obtain ⟨d, h⟩ := step_slot_replaceData rest hs hp hq h0 h1
  have hut : u = t.replaceData d := by simpa [ht, hu, mapNext] using h
  rw [hut, outputs_replaceData]

end Sys2Proof.Machine
end

section
/-! PROOFS. 20_memory.md, the Register Table (R28): what a table read at an address gives, entry by entry, and that the
table made of a partial map gives the map. -/

namespace Sys2Proof

@[simp] theorem entry_cons_same (a : Addr) (n : String) (t : NameTable) :
    NameTable.entry ((a.toNat, n) :: t) a = some n := by
  simp [NameTable.entry]

theorem entry_cons_other {k : Nat} {a : Addr} (h : k ≠ a.toNat) (n : String) (t : NameTable) :
    NameTable.entry ((k, n) :: t) a = NameTable.entry t a := by
  simp [NameTable.entry, h]

/-- The table made of a partial map by listing some addresses gives the map at those, and nothing elsewhere. -/
theorem entry_filterMap (f : Nat → Option String) (a : Addr) (l : List Nat) :
    NameTable.entry (l.filterMap fun k => (f k).map fun n => (k, n)) a = if a.toNat ∈ l then f a.toNat else none := by
  induction l with
  | nil => rfl
  | cons k l ih =>
    by_cases hk : k = a.toNat
    · subst hk
      cases hf : f a.toNat with
      | none => simp [hf, ih]
      | some n => simp [hf]
    · cases hf : f k with
      | none => simp [hf, ih, Ne.symm hk]
      | some n => simp [hf, ih, entry_cons_other hk, Ne.symm hk]

theorem entry_ofEntries (f : Addr → Option String) (a : Addr) : NameTable.entry (NameTable.ofEntries f) a = f a := by
  have hmem : a.toNat ∈ List.range 128 := List.mem_range.2 a.isLt
  rw [NameTable.ofEntries, entry_filterMap (fun k => f (BitVec.ofNat 7 k)), if_pos hmem, BitVec.ofNat_toNat,
    BitVec.setWidth_eq]

namespace Machine

theorem nameOf_of_entry {c : Config} {a : Addr} {n : String} (h : c.nameTable.entry a = some n) : nameOf c a = n := by
  simp [nameOf, h]

/-- Settles O56: every address is listed by `ofEntries`, and where there is an entry `nameOf` gives it. -/
theorem anyMapIsATable : Obligations.AnyMapIsATable := by
  refine ⟨entry_ofEntries, fun c hc a => ?_⟩
  obtain ⟨n, hn⟩ := Option.isSome_iff_exists.1 (hc a)
  exact ⟨n, hn, nameOf_of_entry hn⟩

end Machine

end Sys2Proof
end

section
/-! PROOFS. 30_encoding.md sections 1 and 2, the event word and the address byte: what a word decodes to is told by its
kind and its two optional bytes, a mask reads the same fields, and the encoder undoes the decoder (R45 to R50). -/

namespace Sys2Proof

/-! ## The fields of a word -/

@[simp] theorem wordKind_word (p : Period) : wordKind p.word = p.kind := wordKind_packWord _ _ _ _ _

@[simp] theorem wordC2p_word (p : Period) : wordC2p p.word = optByte p.c2pValid p.c2p := wordC2p_packWord _ _ _ _ _

@[simp] theorem wordP2c_word (p : Period) : wordP2c p.word = optByte p.p2cValid p.p2c := wordP2c_packWord _ _ _ _ _

@[simp] theorem optByte_isSome (v : Bool) (b : Byte) : (optByte v b).isSome = v := by cases v <;> rfl

theorem kindOfBits_eq_iff {k : BitVec 2} {q : Kind} : kindOfBits k = q ↔ k = q.bits :=
  ⟨fun h => h ▸ (bits_kindOfBits k).symm, fun h => h ▸ kindOfBits_bits q⟩

/-! ## Decoding a word of each kind (R46) -/

section Decode
variable {w : EventWord}

theorem decodeWord_othK0 (h : wordKind w = 0b00) : decodeWord w = .othK0 := by
  simp [decodeWord, kindOfBits_eq_iff (q := .other0).2 h]

theorem decodeWord_sel (h : wordKind w = 0b01) : decodeWord w = .sel := by
  simp [decodeWord, kindOfBits_eq_iff (q := .selectAsserted).2 h]

theorem decodeWord_xfer (h : wordKind w = 0b10) : decodeWord w = .xfer (wordC2p w) (wordP2c w) := by
  simp [decodeWord, kindOfBits_eq_iff (q := .dataExchange).2 h]

theorem decodeWord_othK3 (h : wordKind w = 0b11) : decodeWord w = .othK3 := by
  simp [decodeWord, kindOfBits_eq_iff (q := .other3).2 h]

/-- All four codes are legal, and each has its class. -/
theorem decodeWord_cases (w : EventWord) :
    (wordKind w = 0b00 ∧ decodeWord w = .othK0) ∨ (wordKind w = 0b01 ∧ decodeWord w = .sel) ∨
    (wordKind w = 0b10 ∧ decodeWord w = .xfer (wordC2p w) (wordP2c w)) ∨
    (wordKind w = 0b11 ∧ decodeWord w = .othK3) := by
  have hk : ∀ k : BitVec 2, k = 0b00 ∨ k = 0b01 ∨ k = 0b10 ∨ k = 0b11 := by decide
  obtain h | h | h | h := hk (wordKind w)
  · exact .inl ⟨h, decodeWord_othK0 h⟩
  · exact .inr (.inl ⟨h, decodeWord_sel h⟩)
  · exact .inr (.inr (.inl ⟨h, decodeWord_xfer h⟩))
  · exact .inr (.inr (.inr ⟨h, decodeWord_othK3 h⟩))

end Decode

/-- The kind of what a word decodes to is the word's own. -/
@[simp] theorem bits_kind_decodeWord (w : EventWord) : (decodeWord w).kind.bits = wordKind w := by
  obtain ⟨hk, h⟩ | ⟨hk, h⟩ | ⟨hk, h⟩ | ⟨hk, h⟩ := decodeWord_cases w <;> rw [hk, h] <;> rfl

/-- Bits that are no field of a word's event do not reach the decoder (R47). -/
theorem decodeWord_congr {w w' : EventWord} (hk : wordKind w = wordKind w')
    (hb : wordKind w = 0b10 → wordC2p w = wordC2p w' ∧ wordP2c w = wordP2c w') : decodeWord w = decodeWord w' := by
  obtain ⟨h, e⟩ | ⟨h, e⟩ | ⟨h, e⟩ | ⟨h, e⟩ := decodeWord_cases w <;> rw [e] <;> have h' := hk.symm.trans h
  · exact (decodeWord_othK0 h').symm
  · exact (decodeWord_sel h').symm
  · obtain ⟨hc, hp⟩ := hb h
    rw [decodeWord_xfer h', hc, hp]
  · exact (decodeWord_othK3 h').symm

/-- Settles O1: the fields come back from the packed word, and the decoder reads nothing else of it. -/
theorem wordCarriesPortFields : Obligations.WordCarriesPortFields :=
  ⟨fun p => ⟨wordKind_word p, wordC2p_word p, wordP2c_word p⟩, fun _ _ => decodeWord_congr⟩

/-- Settles O2, by evaluating the decoder on the seven words. -/
theorem sampleWordsDecode : Obligations.SampleWordsDecode := by
  unfold Obligations.SampleWordsDecode
  decide

/-! ## Masks -/

/-- A mask of whole `kind` and any valid bits reads those fields of a word and nothing else. -/
theorem and_packWord_eq_iff (w : EventWord) (k : BitVec 2) (mc mp vc vp : Bool) :
    w &&& packWord 0b11 mc mp 0 0 = packWord k vc vp 0 0 ↔
      wordKind w = k ∧ ((wordC2p w).isSome && mc) = vc ∧ ((wordP2c w).isSome && mp) = vp := by
  have hw : w &&& packWord 0b11 mc mp 0 0 =
      packWord (wordKind w) ((wordC2p w).isSome && mc) ((wordP2c w).isSome && mp) 0 0 := by
    conv_lhs => rw [← packWord_fields w]
    rw [Laws.EncodedInRow.packWord_and, wordC2p, wordP2c, optByte_isSome, optByte_isSome]
  rw [hw]
  constructor
  · intro h
    exact ⟨by simpa using congrArg wordKind h, by simpa using congrArg (fun v => (wordC2p v).isSome) h,
      by simpa using congrArg (fun v => (wordP2c v).isSome) h⟩
  · rintro ⟨rfl, rfl, rfl⟩
    rfl

/-- The mask of the class reads `kind`. -/
theorem and_C_eq_iff (w : EventWord) (k : BitVec 2) :
    w &&& 0xC0000 = packWord k false false 0 0 ↔ wordKind w = k := by
  rw [Laws.EncodedInRow.maskC, and_packWord_eq_iff]
  simp

/-- The mask of five rows reads `kind` and whether the controller's byte is present. -/
theorem and_E_eq_iff (w : EventWord) (k : BitVec 2) (vc : Bool) :
    w &&& 0xE0000 = packWord k vc false 0 0 ↔ wordKind w = k ∧ (wordC2p w).isSome = vc := by
  rw [Laws.EncodedInRow.maskE, and_packWord_eq_iff]
  simp

/-- The mask of the read rows reads `kind` and whether the peripheral's byte is present. -/
theorem and_D_eq_iff (w : EventWord) (k : BitVec 2) (vp : Bool) :
    w &&& 0xD0000 = packWord k false vp 0 0 ↔ wordKind w = k ∧ (wordP2c w).isSome = vp := by
  rw [Laws.EncodedInRow.maskD, and_packWord_eq_iff]
  simp

/-- What a word decodes to tells the word's kind. -/
theorem wordKind_eq_of_decodeWord {w : EventWord} {i : Instr} (h : decodeWord w = i) : wordKind w = i.kind.bits := by
  rw [← h, bits_kind_decodeWord]

/-- Settles O3: the mask reads `kind`, and `kind` and the class of a word tell each other. -/
theorem kindCodesSelectClass : Obligations.KindCodesSelectClass := by
  refine ⟨fun w => ⟨?_, ?_, ?_, ?_⟩, fun _ => rfl⟩
  · exact (and_C_eq_iff w 0b01).trans ⟨decodeWord_sel, wordKind_eq_of_decodeWord⟩
  · exact (and_C_eq_iff w 0b00).trans ⟨decodeWord_othK0, wordKind_eq_of_decodeWord⟩
  · exact (and_C_eq_iff w 0b11).trans ⟨decodeWord_othK3, wordKind_eq_of_decodeWord⟩
  · exact (and_C_eq_iff w 0b10).trans ⟨decodeWord_xfer, wordKind_eq_of_decodeWord⟩

/-! ## The address byte (R49, R50) -/

theorem byteDir_eq_write_iff (b : Byte) : byteDir b = .write ↔ 128 ≤ b.toNat := by
  have h : b.getLsbD 7 = decide (128 ≤ b.toNat) := BitVec.msb_eq_decide b
  rw [byteDir, h]
  by_cases hb : 128 ≤ b.toNat <;> simp [hb]

theorem byteAddr_toNat (b : Byte) : (byteAddr b).toNat = b.toNat % 128 := by
  simp [byteAddr]

theorem setWidth_byteAddr (b : Byte) : (byteAddr b).setWidth 8 = b &&& 0x7F := by
  apply BitVec.eq_of_toNat_eq
  calc ((byteAddr b).setWidth 8).toNat
      = b.toNat % 128 := by rw [BitVec.toNat_setWidth_of_le (by decide), byteAddr_toNat]
    _ = b.toNat &&& 127 := (Nat.and_two_pow_sub_one_eq_mod b.toNat 7).symm
    _ = (b &&& 0x7F).toNat := (BitVec.toNat_and b 0x7F).symm

@[simp] theorem decodeByte_addressByte_read (a : Addr) : decodeByte (addressByte .read a) = .addrRd a := by
  simp [decodeByte]

@[simp] theorem decodeByte_addressByte_write (a : Addr) : decodeByte (addressByte .write a) = .addrWr a := by
  simp [decodeByte]

/-- The row of an address byte carries that byte, and no other. -/
theorem decodeByte_bytes (b : Byte) :
    (decodeByte b).kind = .dataExchange ∧ (decodeByte b).c2p = some b ∧ (decodeByte b).p2c = none := by
  obtain ⟨w, a, rfl⟩ : ∃ w a, b = addressByte w a := ⟨_, _, (addressByte_fields b).symm⟩
  cases w <;> simp [Instr.kind, Instr.c2p, Instr.p2c]

theorem encode_decodeByte (b : Byte) : encode (decodeByte b) = .ab b := by
  obtain ⟨w, a, rfl⟩ : ∃ w a, b = addressByte w a := ⟨_, _, (addressByte_fields b).symm⟩
  cases w <;> simp [encode]

/-! ## Encoding what a word decodes to -/

theorem encode_decodeWord (w : EventWord) : encode (decodeWord w) = .ev
    (if wordKind w = 0b10 then canonicalWord 0b10 (wordC2p w) (wordP2c w)
      else canonicalWord (wordKind w) none none) := by
  obtain ⟨hk, h⟩ | ⟨hk, h⟩ | ⟨hk, h⟩ | ⟨hk, h⟩ := decodeWord_cases w <;> rw [h, hk] <;> rfl

/-- Settles O7: kind by kind for a word, row by row for an address byte. -/
theorem decodeThenEncodeIsCanonical : Obligations.DecodeThenEncodeIsCanonical :=
  ⟨encode_decodeWord, encode_decodeByte⟩

end Sys2Proof
end

section
/-! PROOFS. 30_encoding.md sections 4 and 6, the rows of the umbrella `XFER` (R55, R60): `rowOf` chooses the one row
whose `when` and whose valid bit hold, and keeps the two bytes. -/

namespace Sys2Proof

/-! ## `rowOf`, branch by branch -/

section RowOf
variable (v : Verbosity) (dir : Direction) (c p : Option Byte) (b : Byte)

@[simp] theorem rowOf_a : rowOf .awaitingAddress v dir (some b) p = .xferA (byteDir b) (byteAddr b) p := rfl
@[simp] theorem rowOf_aDrop : rowOf .awaitingAddress v dir none p = .xferADrop p := rfl
@[simp] theorem rowOf_ao : rowOf .inData .addressOnly dir c p = .xferAO c p := rfl
@[simp] theorem rowOf_w : rowOf .inData .full .write (some b) p = .xferW b p := rfl
@[simp] theorem rowOf_wDrop : rowOf .inData .full .write none p = .xferWDrop p := rfl
@[simp] theorem rowOf_r : rowOf .inData .full .read c (some b) = .xferR b c := rfl
@[simp] theorem rowOf_rDrop : rowOf .inData .full .read c none = .xferRDrop c := rfl

end RowOf

/-- The row that `rowOf` chooses is a form of the event with these two bytes. -/
theorem rowOf_bytes (phase : Phase) (v : Verbosity) (dir : Direction) (c p : Option Byte) :
    (rowOf phase v dir c p).kind = .dataExchange ∧ (rowOf phase v dir c p).c2p = c ∧
      (rowOf phase v dir c p).p2c = p := by
  cases phase with
  | awaitingAddress => cases c <;> simp [Instr.kind, Instr.c2p, Instr.p2c]
  | inData =>
    cases v with
    | addressOnly => exact ⟨rfl, rfl, rfl⟩
    | full =>
      cases dir with
      | write => cases c <;> exact ⟨rfl, rfl, rfl⟩
      | read => cases p <;> exact ⟨rfl, rfl, rfl⟩

/-! ## Decoding an instruction's own word -/

theorem decodeWord_eventWord {i : Instr} (h : i.kind = .dataExchange) :
    decodeWord i.eventWord = .xfer i.c2p i.p2c := by
  rw [Instr.eventWord, h, decodeWord_canonicalWord_exchange]

theorem decodeIn_of_xfer {w : EventWord} {c p : Option Byte} (h : decodeWord w = .xfer c p)
    (phase : Phase) (v : Verbosity) (dir : Direction) : decodeIn phase v dir w = rowOf phase v dir c p := by
  rw [decodeIn, h]

theorem kind_of_xferRow {i : Instr} {row : XferRow} (h : i.xferRow = some row) : i.kind = .dataExchange := by
  cases i with
  | sel | othK0 | othK3 => exact nomatch h
  | _ => rfl

/-- In a state that its row names, an instruction is the row chosen for its own two bytes. -/
theorem rowOf_of_holds {i : Instr} {row : XferRow} {phase : Phase} {v : Verbosity} {dir : Direction}
    (hi : i.xferRow = some row) (h : row.holds phase v dir = true) : rowOf phase v dir i.c2p i.p2c = i := by
  cases i with
  | sel | othK0 | othK3 | xfer | addrRd | addrWr => exact nomatch hi
  | xferA w a p =>
    obtain rfl := Option.some.inj hi
    obtain rfl : phase = .awaitingAddress := by simpa [XferRow.holds] using h
    simp [Instr.c2p, Instr.p2c]
  | xferADrop p =>
    obtain rfl := Option.some.inj hi
    obtain rfl : phase = .awaitingAddress := by simpa [XferRow.holds] using h
    rfl
  | xferW | xferWDrop | xferR | xferRDrop =>
    obtain rfl := Option.some.inj hi
    obtain ⟨⟨rfl, rfl⟩, rfl⟩ : (phase = .inData ∧ dir = _) ∧ v = .full := by simpa [XferRow.holds] using h
    rfl
  | xferAO c p =>
    obtain rfl := Option.some.inj hi
    obtain ⟨rfl, rfl⟩ : phase = .inData ∧ v = .addressOnly := by simpa [XferRow.holds] using h
    rfl

theorem decode_encode (i : Instr) : decode (encode i) = i.umbrella := by
  cases i with
  | sel | othK0 | othK3 => decide
  | addrRd a => exact decodeByte_addressByte_read a
  | addrWr a => exact decodeByte_addressByte_write a
  | _ => exact decodeWord_eventWord rfl

/-- Settles O6: the canonical word gives back the event, and in a state of the instruction's row the event is that
row. -/
theorem encodeThenDecode : Obligations.EncodeThenDecode := by
  refine ⟨fun i _ => decode_encode i, ?_⟩
  intro i row phase v dir _ hi h
  rw [decodeIn_of_xfer (decodeWord_eventWord (kind_of_xferRow hi)), rowOf_of_holds hi h]

/-! ## Exactly one row -/

/-- The presence of a byte that a row asks for: what its `mask` and `match` say beside the kind. -/
def XferRow.asks (c p : Option Byte) : XferRow → Prop
  | .a => c.isSome = true
  | .aDrop => c.isSome = false
  | .w => c.isSome = true
  | .wDrop => c.isSome = false
  | .r => p.isSome = true
  | .rDrop => p.isSome = false
  | .ao => True

/-- A word belongs to a row by its bits when it is a data exchange with the byte that the row asks for. -/
theorem and_mask_eq_pattern_iff (row : XferRow) (w : EventWord) :
    w &&& row.mask = row.pattern ↔ wordKind w = 0b10 ∧ row.asks (wordC2p w) (wordP2c w) := by
  cases row with
  | a | w => exact and_E_eq_iff w 0b10 true
  | aDrop | wDrop => exact and_E_eq_iff w 0b10 false
  | r => exact and_D_eq_iff w 0b10 true
  | rDrop => exact and_D_eq_iff w 0b10 false
  | ao => exact (and_C_eq_iff w 0b10).trans (and_iff_left trivial).symm

/-- The row that `rowOf` chooses is the only one that asks for what the event has and holds in the state. -/
theorem rowOf_xferRow_iff (phase : Phase) (v : Verbosity) (dir : Direction) (c p : Option Byte) (row : XferRow) :
    (rowOf phase v dir c p).xferRow = some row ↔ row.asks c p ∧ row.holds phase v dir = true := by
  cases phase with
  | awaitingAddress => cases c <;> cases row <;> simp [Instr.xferRow, XferRow.asks, XferRow.holds]
  | inData =>
    cases v with
    | addressOnly => cases row <;> simp [Instr.xferRow, XferRow.asks, XferRow.holds]
    | full =>
      cases dir with
      | write => cases c <;> cases row <;> simp [Instr.xferRow, XferRow.asks, XferRow.holds]
      | read => cases p <;> cases row <;> simp [Instr.xferRow, XferRow.asks, XferRow.holds]

theorem rowOf_xferRow_isSome (phase : Phase) (v : Verbosity) (dir : Direction) (c p : Option Byte) :
    ∃ row, (rowOf phase v dir c p).xferRow = some row := by
  cases phase with
  | awaitingAddress => cases c <;> exact ⟨_, rfl⟩
  | inData =>
    cases v with
    | addressOnly => exact ⟨_, rfl⟩
    | full =>
      cases dir with
      | write => cases c <;> exact ⟨_, rfl⟩
      | read => cases p <;> exact ⟨_, rfl⟩

/-- Settles O5: a row applies exactly when it is the one that `rowOf` chooses. -/
theorem exactlyOneRowApplies : Obligations.ExactlyOneRowApplies := by
  intro phase v dir w hw
  have hk : wordKind w = 0b10 := (and_C_eq_iff w 0b10).1 hw
  obtain ⟨row, hrow⟩ := rowOf_xferRow_isSome phase v dir (wordC2p w) (wordP2c w)
  have happlies : ∀ other : XferRow,
      (w &&& other.mask = other.pattern ∧ other.holds phase v dir = true) ↔ other = row := by
    intro other
    rw [and_mask_eq_pattern_iff, and_assoc, ← rowOf_xferRow_iff, hrow, Option.some_inj, eq_comm (a := row)]
    exact and_iff_right hk
  refine ⟨row, (happlies row).2 rfl, fun other hm hh => (happlies other).1 ⟨hm, hh⟩, ?_⟩
  rw [decodeIn_of_xfer (decodeWord_xfer hk), hrow]

end Sys2Proof
end

section
/-! PROOFS. What an instruction does, told by its kind and its bytes: every row that is a form of a data-exchange event
runs the step of R62 on that event's bytes, in its own state and in every other (R55, log 8). -/

namespace Sys2Proof.Machine

/-! ## The rows of the address phase -/

theorem execXferA_eq (w : Direction) (a : Addr) (p : Option Byte) (s : State) :
    execXferA w a p s = execXfer (some (addressByte w a)) p s := by
  refine ite_eq_right_iff.2 fun h => ?_
  rw [execXfer, exchange_awaiting _ _ h, addressArm, byteDir_addressByte, byteAddr_addressByte]
  rfl

/-- An address byte of each direction is accepted as the `XFER.A` event of that direction (R73, R74). -/
theorem execAddrRd_eq (a : Addr) (s : State) : execAddrRd a s = execXferA .read a none s := rfl

theorem execAddrWr_eq (a : Addr) (s : State) : execAddrWr a s = execXferA .write a none s := rfl

theorem execXferADrop_eq (p : Option Byte) (s : State) : execXferADrop p s = execXfer none p s := by
  refine ite_eq_right_iff.2 fun h => ?_
  rw [execXfer, exchange_awaiting _ _ h, addressArm]

/-! ## The rows of the data phase -/

theorem inCycle_iff (d : Direction) (s : State) :
    s.inCycle d = true ↔ s.phase = .inData ∧ s.cfg.verbosity = .full ∧ s.dir = d := by
  simp [State.inCycle, and_assoc]

/-- In its cycle a direction's present byte is reported, and `cur_addr` moves on (R81, R82). -/
theorem exchange_of_inCycle_present {d : Direction} {s : State} {c p : Option Byte} {b : Byte}
    (h : s.inCycle d = true) (hb : selectByte d c p = some b) :
    exchange c p s = autoIncrement (emit (dataEvent d b s) (recordKind .dataExchange s)) := by
  obtain ⟨hp, hv, rfl⟩ := (inCycle_iff d s).1 h
  rw [exchange_inData c p hp]
  exact dataArm_present (s := recordKind .dataExchange s) hv hb

/-- In its cycle a direction's absent byte is dropped (R83, R84). -/
theorem exchange_of_inCycle_absent {d : Direction} {s : State} {c p : Option Byte}
    (h : s.inCycle d = true) (hb : selectByte d c p = none) :
    exchange c p s = dropEvent .dataByteAbsent (recordKind .dataExchange s) := by
  obtain ⟨hp, hv, rfl⟩ := (inCycle_iff d s).1 h
  rw [exchange_inData c p hp]
  exact dataArm_absent (s := recordKind .dataExchange s) hv hb

theorem execXferW_eq (d : Byte) (p : Option Byte) (s : State) : execXferW d p s = execXfer (some d) p s :=
  ite_eq_right_iff.2 fun h => congrArg Host.Outcome.next (exchange_of_inCycle_present h rfl).symm

theorem execXferWDrop_eq (p : Option Byte) (s : State) : execXferWDrop p s = execXfer none p s :=
  ite_eq_right_iff.2 fun h => congrArg Host.Outcome.next (exchange_of_inCycle_absent h rfl).symm

theorem execXferR_eq (d : Byte) (c : Option Byte) (s : State) : execXferR d c s = execXfer c (some d) s :=
  ite_eq_right_iff.2 fun h => congrArg Host.Outcome.next (exchange_of_inCycle_present h rfl).symm

theorem execXferRDrop_eq (c : Option Byte) (s : State) : execXferRDrop c s = execXfer c none s :=
  ite_eq_right_iff.2 fun h => congrArg Host.Outcome.next (exchange_of_inCycle_absent h rfl).symm

theorem execXferAO_eq (c p : Option Byte) (s : State) : execXferAO c p s = execXfer c p s := by
  refine ite_eq_right_iff.2 fun ⟨hp, hv⟩ => ?_
  rw [execXfer, exchange_inData c p hp]
  exact congrArg Host.Outcome.next (dataArm_addressOnly (s := recordKind .dataExchange s) c p hv).symm

/-! ## Every row -/

/-- Every row of the table that is a form of a data-exchange event runs the step of R62 on the event's two bytes. -/
theorem exec_of_exchange {i : Instr} (h : i.kind = .dataExchange) (s : State) :
    exec i s = .next (exchange i.c2p i.p2c s) := by
  cases i with
  | sel | othK0 | othK3 => exact nomatch h
  | xfer c p => rfl
  | xferA w a p => exact execXferA_eq w a p s
  | xferADrop p => exact execXferADrop_eq p s
  | xferW d p => exact execXferW_eq d p s
  | xferWDrop p => exact execXferWDrop_eq p s
  | xferR d c => exact execXferR_eq d c s
  | xferRDrop c => exact execXferRDrop_eq c s
  | xferAO c p => exact execXferAO_eq c p s
  | addrRd a => exact (execAddrRd_eq a s).trans (execXferA_eq .read a none s)
  | addrWr a => exact (execAddrWr_eq a s).trans (execXferA_eq .write a none s)

/-- Settles O27: the row selected carries the event's two bytes, and every row runs its event. -/
theorem umbrellaRunsSelectedRow : Obligations.UmbrellaRunsSelectedRow := by
  intro s c p
  obtain ⟨hk, hc, hp⟩ := rowOf_bytes s.phase s.cfg.verbosity s.dir c p
  refine ⟨?_, hc, hp⟩
  rw [exec_of_exchange hk, hc, hp]
  rfl

/-- An address byte that is awaited is accepted, whatever the other byte (R72). -/
theorem exchange_awaiting_present {s : State} (h : s.phase = .awaitingAddress) (b : Byte) (p : Option Byte) :
    exchange (some b) p s = emit (addressEvent (byteDir b) (byteAddr b) s)
      (writeAddress (byteDir b) (byteAddr b) (recordKind .dataExchange s)) :=
  exchange_awaiting (some b) p h

/-- Settles O4: the byte's fields as numbers, the worked values by evaluation, and what the accepted byte writes. -/
theorem addressByteOperands : Obligations.AddressByteOperands := by
  refine ⟨fun b => ⟨byteDir_eq_write_iff b, byteAddr_toNat b, setWidth_byteAddr b, addressByte_fields b⟩,
    by decide, by decide, by decide, by decide, by decide, by decide, ?_⟩
  intro s b p h
  exact ⟨_, congrArg Host.Outcome.next (exchange_awaiting_present h b p), rfl, rfl⟩

end Sys2Proof.Machine
end

section
/-! PROOFS. 30_encoding.md sections 1 and 6, one period: an idle one keeps the state (R61, R138), an event runs the
instruction that its word decodes to (R43), and its ignored bits and its timestamps reach no decision (R45 to R48). -/

namespace Sys2Proof.Machine

/-! ## Periods without an event (R61, R138) -/

theorem step_noOutput_of_feed_nil {s : State} (h : s.feed = []) : step (noOutput s) = .next (noOutput s) :=
  step_nil (s := noOutput s) h

theorem runAlone_noOutput_of_feed_nil (k : Nat) {s : State} (h : s.feed = []) :
    runAlone k (.next (noOutput s)) = .next (noOutput s) := by
  induction k with
  | zero => rfl
  | succ k ih => rw [runAlone, stepOn, step_noOutput_of_feed_nil h, ih]

theorem outputs_of_feed_nil (k : Nat) {s : State} (h : s.feed = []) : outputs k s = [] := by
  rw [← outputs_noOutput]
  induction k with
  | zero => rfl
  | succ k ih => simp [outputs, step_noOutput_of_feed_nil h, ih]

/-- Settles O10: an idle period only takes the output away, and once the feed is empty every period is idle. -/
theorem noEventNoChange : Obligations.NoEventNoChange := by
  constructor
  · intro s p rest hf hr he
    rw [step_cons hf, runPeriod_idle _ hr he]
    rfl
  · intro s k hf
    refine ⟨?_, outputs_of_feed_nil k hf⟩
    calc runAlone (k + 1) (.next s) = runAlone k (.next (noOutput s)) := congrArg (runAlone k) (step_nil hf)
      _ = .next (noOutput s) := runAlone_noOutput_of_feed_nil k hf

/-! ## Periods with an event (R43) -/

theorem step_event {s : State} {p : Period} {rest : List Period} (hf : s.feed = p :: rest) (hr : p.rst = false)
    (he : p.evValid = true) : step s = exec (decodeWord p.word) (presentPeriod p rest s) := by
  rw [step_cons hf, runPeriod_event _ hr he, fetchInstr]

/-- Settles O11: the state handed to `exec` is the one with the period on the ports. -/
theorem stepRunsDecodedEvent : Obligations.StepRunsDecodedEvent := by
  rintro s p rest _ hf hr he rfl -
  exact step_event hf hr he

/-! ## A placed word (logs 4, 9) -/

@[simp] theorem word_wordPeriod (w : EventWord) (t0 t1 : Nat) : (wordPeriod w t0 t1).word = w := packWord_fields w

/-- A placed event word with the timestamps in hand is decoded and run, and leaves the feed as it was. -/
theorem step_wordPeriod (w : EventWord) (s : State) :
    step { s with feed := wordPeriod w s.tStart s.tEnd :: s.feed } = exec (decodeWord w) s := by
  rw [step_event rfl rfl rfl, word_wordPeriod]
  rfl

theorem decodeTableWord_eq_some {nbits w : Nat} {i : Instr} (h : decodeTableWord nbits w = some i) :
    ∃ e, readTableWord nbits w = .ok e ∧ decode e = i := by
  rw [decodeTableWord, decodeTable] at h
  cases hr : readTableWord nbits w with
  | ok e => exact ⟨e, rfl, by simpa [hr] using h⟩
  | error r => simp [hr] at h

/-- An address byte is read from at most 8 bits. -/
theorem nbits_le_of_readTableWord_ab {nbits w : Nat} {b : Byte} (h : readTableWord nbits w = .ok (.ab b)) :
    nbits ≤ 8 := by
  by_contra hn
  rw [readTableWord, if_neg hn] at h
  split at h <;> cases h

/-- An event word is read from more. -/
theorem not_nbits_le_of_readTableWord_ev {nbits w : Nat} {e : EventWord} (h : readTableWord nbits w = .ok (.ev e)) :
    ¬ nbits ≤ 8 := by
  intro hn
  rw [readTableWord, if_pos hn] at h
  split at h <;> cases h

/-- The row of an address byte and the exchange that carries it alone are one event. -/
theorem exec_decodeByte (b : Byte) (s : State) : exec (decodeByte b) s = exec (.xfer (some b) none) s := by
  obtain ⟨hk, hc, hp⟩ := decodeByte_bytes b
  rw [exec_of_exchange hk, hc, hp]
  rfl

/-- Settles O12: an event word is run as it stands, an address byte as the exchange that carries it. -/
theorem placedWordRunsNext : Obligations.PlacedWordRunsNext := by
  intro s nbits w i h
  obtain ⟨e, hread, rfl⟩ := decodeTableWord_eq_some h
  rw [State.withFetchWord, placeTableWord, hread]
  cases e with
  | ev e =>
    rw [if_neg (not_nbits_le_of_readTableWord_ev hread)]
    exact step_wordPeriod e s
  | ab b =>
    rw [if_pos (nbits_le_of_readTableWord_ab hread), decode, exec_decodeByte, ← decodeWord_canonicalWord_exchange]
    exact step_wordPeriod _ { s with phase := .awaitingAddress }

/-! ## Ignored bits (R45, R47) -/

/-- A period runs by its control ports and the instruction on it. -/
theorem runPeriod_congr {p q : Period} (hr : p.rst = q.rst) (he : p.evValid = q.evValid)
    (hi : fetchInstr p = fetchInstr q) (s : State) : runPeriod p s = runPeriod q s := by
  rw [runPeriod, runPeriod, hr, he, hi]

/-- Settles O51: the two periods put the same instruction and the same timestamps on the ports. -/
theorem ignoredInputBitsHaveNoEffect : Obligations.IgnoredInputBitsHaveNoEffect := by
  intro s p q rest hr he h0 h1 hk hb
  have hi : fetchInstr p = fetchInstr q := decodeWord_congr (by simpa using hk) (by simpa using hb)
  rw [step_cons rfl, step_cons rfl, presentPeriod_congr h0 h1, runPeriod_congr hr he hi]

/-! ## Timestamps (R48) -/

section Restamp
variable (t0 t1 : Nat)

theorem addressArm_restamp (c : Option Byte) (s : State) :
    addressArm c (s.restamp t0 t1) = (addressArm c s).restamp t0 t1 := by
  cases c <;> rfl

theorem dataArm_restamp (c p : Option Byte) (s : State) :
    dataArm c p (s.restamp t0 t1) = (dataArm c p s).restamp t0 t1 := by
  cases hv : s.cfg.verbosity with
  | addressOnly => rw [dataArm_addressOnly c p hv, dataArm_addressOnly (s := s.restamp t0 t1) c p hv]; rfl
  | full =>
    cases hb : selectByte s.dir c p with
    | none => rw [dataArm_absent hv hb, dataArm_absent (s := s.restamp t0 t1) hv hb]; rfl
    | some b => rw [dataArm_present hv hb, dataArm_present (s := s.restamp t0 t1) hv hb]; rfl

theorem exchange_restamp (c p : Option Byte) (s : State) :
    exchange c p (s.restamp t0 t1) = (exchange c p s).restamp t0 t1 := by
  cases hp : s.phase with
  | awaitingAddress =>
    rw [exchange_awaiting c p hp, exchange_awaiting (s := s.restamp t0 t1) c p hp]
    exact addressArm_restamp t0 t1 c (recordKind .dataExchange s)
  | inData =>
    rw [exchange_inData c p hp, exchange_inData (s := s.restamp t0 t1) c p hp]
    exact dataArm_restamp t0 t1 c p (recordKind .dataExchange s)

/-- What a period makes of a state with other timestamps in hand is what it makes of the state, with them. -/
theorem runPeriod_restamp (p : Period) (s : State) :
    runPeriod p (s.restamp t0 t1) = mapNext (State.restamp t0 t1) (runPeriod p s) := by
  obtain ⟨-, e⟩ | ⟨-, -, e⟩ | ⟨-, -, e⟩ | ⟨-, e⟩ := runPeriod_cases p <;> rw [e, e]
  · rfl
  · rfl
  · rfl
  · rw [exchange_restamp]; rfl

end Restamp

/-- Settles O52: the period with other timestamps runs as the period itself, on a state that differs in the timestamps
in hand and in an output that no step reads. -/
theorem timestampsOnlyCopied : Obligations.TimestampsOnlyCopied := by
  intro s p rest t0 t1
  rw [step_cons rfl, step_cons rfl, runPeriod_congr (q := p) rfl rfl rfl, ← runPeriod_noOutput, ← runPeriod_restamp,
    ← runPeriod_noOutput p (State.restamp _ _ _)]
  rfl

end Sys2Proof.Machine
end

section
/-! PROOFS. 30_encoding.md section 3, the output ports (R53, R54): low without an event, and the fields of the record
with one. -/

namespace Sys2Proof.Machine

theorem runPeriod_out_of_not_event {p : Period} {s t : State} (h : p.isEvent = false) (ht : runPeriod p s = .next t) :
    t.out = none := by
  obtain ⟨-, e⟩ | ⟨-, -, e⟩ | ⟨he, -, -⟩ | ⟨hk, -⟩ := runPeriod_cases p
  · obtain rfl := Host.Outcome.next.inj ((e s).symm.trans ht)
    exact takeReset_out s
  · obtain rfl := Host.Outcome.next.inj ((e s).symm.trans ht)
    exact noOutput_out s
  · exact absurd he (by simp [h])
  · exact absurd ((isKind_iff _ p).1 hk).1 (by simp [h])

theorem outValid_iff (s : State) : s.outValid = true ↔ s.out ≠ none := Option.isSome_iff_ne_none

theorem outPorts_of_out_none {s : State} (h : s.out = none) : s.outValid = false ∧ s.outPorts = none := by
  simp [State.outValid, State.outPorts, h]

theorem outPorts_of_out_some {s : State} {r : OutEvent} (h : s.out = some r) : s.outPorts = some (portsOf r) := by
  simp [State.outPorts, h]

/-! ## The codes on the ports (the spec's decision D6) -/

/-- Each category has its own code, and `0b11` is none. -/
theorem category_bits_iff (c : Category) : c.bits ≠ 0b11 ∧ (c.bits = 0b00 ↔ c = .address) ∧
    (c.bits = 0b01 ↔ c = .read) ∧ (c.bits = 0b10 ↔ c = .write) := by
  cases c <;> decide

theorem category_bits_injective : Function.Injective Category.bits := by
  intro a b
  cases a <;> cases b <;> decide

theorem direction_bit_eq_one_iff (w : Direction) : w.bit = 1 ↔ w = .write := by
  cases w <;> decide

theorem direction_bit_injective : Function.Injective Direction.bit := by
  intro a b
  cases a <;> cases b <;> decide

theorem ofBool_eq_one_iff (b : Bool) : BitVec.ofBool b = 1 ↔ b = true := by
  cases b <;> decide

theorem portsOf_injective : Function.Injective portsOf := by
  rintro ⟨c, a, w, d, t0, t1⟩ ⟨c', a', w', d', t0', t1'⟩ h
  obtain ⟨hc, rfl, hw, -, rfl, rfl, rfl⟩ := OutPorts.mk.inj h
  obtain rfl := category_bits_injective hc
  obtain rfl := direction_bit_injective hw
  rfl

/-- Settles O60: a period without an event leaves no output, and each port holds a field of the record or its code. -/
theorem outputPortsCarryTheRecord : Obligations.OutputPortsCarryTheRecord := by
  refine ⟨?_, fun s => ⟨outValid_iff s, fun r => outPorts_of_out_some⟩, ?_, fun r r' h => portsOf_injective h⟩
  · intro s t p rest hf he ht
    exact outPorts_of_out_none (runPeriod_out_of_not_event he ((step_cons hf).symm.trans ht))
  · intro r
    obtain ⟨hnone, haddress, hread, hwrite⟩ := category_bits_iff r.cat
    exact ⟨hnone, rfl, rfl, rfl, rfl, direction_bit_eq_one_iff r.dir, ofBool_eq_one_iff _, haddress, hread,
      hwrite⟩

end Sys2Proof.Machine
end

section
/-! PROOFS. 40_event_sequencing.md sections 1 and 2, the step (R62 to R65): every instruction answers a next state, which
is the quiet record of its kind or the exchange of its two bytes, and an exchange has an output exactly where it accepts
a byte. -/

namespace Sys2Proof.Machine

/-! ## Every instruction answers (R62) -/

/-- Settles O26: both sides run the exchange of the row's two bytes. -/
theorem rowsMeanTheirEvent : Obligations.RowsMeanTheirEvent :=
  fun _ s h => exec_of_exchange h s

/-- An instruction of another kind than data exchange records its kind and has no output. -/
theorem exec_quiet {i : Instr} (h : i.kind ≠ .dataExchange) (s : State) :
    exec i s = .next (noOutput (recordKind i.kind s)) := by
  cases i with
  | sel | othK0 | othK3 => rfl
  | _ => exact absurd rfl h

/-- Everything an instruction can do, told by its kind. -/
theorem exec_cases (i : Instr) (s : State) :
    (i.kind ≠ .dataExchange ∧ exec i s = .next (noOutput (recordKind i.kind s))) ∨
    (i.kind = .dataExchange ∧ exec i s = .next (exchange i.c2p i.p2c s)) := by
  by_cases h : i.kind = .dataExchange
  · exact .inr ⟨h, exec_of_exchange h s⟩
  · exact .inl ⟨h, exec_quiet h s⟩

/-- The next state of a data-exchange instruction is that of the umbrella event. -/
theorem eq_exchange_of_exec {i : Instr} {s t : State} (h : exec i s = .next t) (hk : i.kind = .dataExchange) :
    t = exchange i.c2p i.p2c s :=
  Host.Outcome.next.inj (h.symm.trans (exec_of_exchange hk s))

@[simp] theorem exchange_phase (c p : Option Byte) (s : State) : (exchange c p s).phase = .inData := by
  obtain ⟨-, -, e⟩ | ⟨b, -, -, e⟩ | ⟨-, -, e⟩ | ⟨-, -, -, e⟩ | ⟨b, -, -, -, e⟩ :=
    exchange_cases c p s <;> simp [e, phaseAfter]

/-- An exchange keeps what the front-end gave. -/
theorem exchange_inputs (c p : Option Byte) (s : State) :
    (exchange c p s).feed = s.feed ∧ (exchange c p s).tStart = s.tStart ∧ (exchange c p s).tEnd = s.tEnd := by
  obtain ⟨-, -, e⟩ | ⟨b, -, -, e⟩ | ⟨-, -, e⟩ | ⟨-, -, -, e⟩ | ⟨b, -, -, -, e⟩ :=
    exchange_cases c p s <;> simp [e]

/-- Settles O28: the next state is the quiet record of the kind, or the exchange, whose frame is known. -/
theorem everyEventCompletes : Obligations.EveryEventCompletes := by
  intro i s
  obtain ⟨-, e⟩ | ⟨hk, e⟩ := exec_cases i s
  · exact ⟨_, e, rfl, rfl, rfl, rfl, rfl⟩
  · exact ⟨_, e, by rw [exchange_phase, hk]; rfl, exchange_cfg _ _ s, exchange_inputs _ _ s⟩

/-! ## `phase` (R64) -/

theorem exec_phase {i : Instr} {s t : State} (h : exec i s = .next t) : t.phase = phaseAfter i.kind := by
  obtain ⟨u, hu, hphase, -⟩ := everyEventCompletes i s
  rwa [Host.Outcome.next.inj (h.symm.trans hu)]

theorem phaseAfter_eq_awaitingAddress_iff (k : Kind) : phaseAfter k = .awaitingAddress ↔ k = .selectAsserted := by
  cases k <;> decide

theorem kind_eq_selectAsserted_iff (i : Instr) : i.kind = .selectAsserted ↔ i = .sel := by
  cases i <;> simp [Instr.kind]

/-- Settles O33: of the kinds only `SEL`'s leaves the address phase, and only `SEL` has it. -/
theorem phaseRecordsKind : Obligations.PhaseRecordsKind := by
  intro i s t h
  refine ⟨exec_phase h, ?_⟩
  rw [exec_phase h, phaseAfter_eq_awaitingAddress_iff, kind_eq_selectAsserted_iff]

/-! ## The steps that emit (R65, R71) -/

theorem dataCategory_ne_address (w : Direction) : dataCategory w ≠ .address := by
  cases w <;> exact nofun

/-- The outputs of an exchange: the address event of an accepted address byte and, in full decode, the data event of an
accepted data byte. -/
theorem exchange_out_eq_some_iff (c p : Option Byte) (s : State) (r : OutEvent) :
    (exchange c p s).out = some r ↔
      (s.phase = .awaitingAddress ∧ ∃ b, c = some b ∧ addressEvent (byteDir b) (byteAddr b) s = r) ∨
      (s.phase = .inData ∧ s.cfg.verbosity = .full ∧
        ∃ b, selectByte s.dir c p = some b ∧ dataEvent s.dir b s = r) := by
  obtain ⟨hp, hb, e⟩ | ⟨b, hp, hb, e⟩ | ⟨hp, hv, e⟩ | ⟨hp, hv, hb, e⟩ | ⟨b, hp, hv, hb, e⟩ :=
    exchange_cases c p s <;> rw [e]
  · simp [hp, hb]
  · simp [hp, hb]
  · simp [hp, hv]
  · simp [hp, hb]
  · simp [hp, hv, hb]

/-- An exchange has an output exactly where it accepts a byte. -/
theorem exchange_out_isSome_iff (c p : Option Byte) (s : State) :
    (exchange c p s).out.isSome = true ↔
      (s.phase = .awaitingAddress ∧ c.isSome = true) ∨
      (s.phase = .inData ∧ s.cfg.verbosity = .full ∧ (selectByte s.dir c p).isSome = true) := by
  simp only [Option.isSome_iff_exists, exchange_out_eq_some_iff]
  constructor
  · rintro ⟨r, ⟨hp, b, hb, -⟩ | ⟨hp, hv, b, hb, -⟩⟩
    · exact .inl ⟨hp, b, hb⟩
    · exact .inr ⟨hp, hv, b, hb⟩
  · rintro (⟨hp, b, hb⟩ | ⟨hp, hv, b, hb⟩)
    · exact ⟨_, .inl ⟨hp, b, hb, rfl⟩⟩
    · exact ⟨_, .inr ⟨hp, hv, b, hb, rfl⟩⟩

/-- The output is an address event exactly where an address byte is accepted. -/
theorem exchange_emits_address_iff (c p : Option Byte) (s : State) :
    (∃ r, (exchange c p s).out = some r ∧ r.cat = .address) ↔ s.phase = .awaitingAddress ∧ c.isSome = true := by
  simp only [Option.isSome_iff_exists, exchange_out_eq_some_iff]
  constructor
  · rintro ⟨r, ⟨hp, b, hb, -⟩ | ⟨-, -, b, -, rfl⟩, hcat⟩
    · exact ⟨hp, b, hb⟩
    · exact absurd hcat (dataCategory_ne_address s.dir)
  · rintro ⟨hp, b, hb⟩
    exact ⟨_, .inl ⟨hp, b, hb, rfl⟩, rfl⟩

/-- The output is a data event of the held direction with the byte selected exactly where a data byte is accepted. -/
theorem exchange_emits_data_iff (c p : Option Byte) (s : State) :
    (∃ r, (exchange c p s).out = some r ∧ r.cat = dataCategory s.dir ∧ r.data = selectByte s.dir c p) ↔
      s.phase = .inData ∧ s.cfg.verbosity = .full ∧ (selectByte s.dir c p).isSome = true := by
  simp only [Option.isSome_iff_exists, exchange_out_eq_some_iff]
  constructor
  · rintro ⟨r, ⟨-, b, -, rfl⟩ | ⟨hp, hv, b, hb, -⟩, hcat, -⟩
    · exact absurd hcat.symm (dataCategory_ne_address s.dir)
    · exact ⟨hp, hv, b, hb⟩
  · rintro ⟨hp, hv, b, hb⟩
    exact ⟨_, .inr ⟨hp, hv, b, hb, rfl⟩, rfl, hb.symm⟩

/-- Settles O34: an event of another kind is quiet, the outputs of an exchange are known, and neither a period without
an event nor the end of the feed has one. -/
theorem emittingStepsAreExactlyAccepted : Obligations.EmittingStepsAreExactlyAccepted := by
  refine ⟨?_, ?_, ?_, outputs_of_feed_nil⟩
  · intro i s t h hk
    obtain rfl := Host.Outcome.next.inj ((exec_quiet hk s).symm.trans h)
    exact ⟨rfl, rfl⟩
  · intro i s t h hk
    obtain rfl := eq_exchange_of_exec h hk
    exact ⟨exchange_out_isSome_iff _ _ s, exchange_emits_address_iff _ _ s, exchange_emits_data_iff _ _ s⟩
  · intro s t p rest hf he h
    exact runPeriod_out_of_not_event he ((step_cons hf).symm.trans h)

end Sys2Proof.Machine
end

section
/-! PROOFS. 40_event_sequencing.md sections 2 and 3, the events that carry no data (R66, R67): the mask of the class reads
`kind`, and the meaning writes `phase` and takes the output away. -/

namespace Sys2Proof.Machine

/-- Settles O13: the frame is the record update that `recordKind` and `noOutput` make. -/
theorem selSetsAwaitingAddress : Obligations.SelSetsAwaitingAddress :=
  ⟨fun w h => decodeWord_sel ((and_C_eq_iff w 0b01).1 h), fun s => exec_quiet (i := .sel) nofun s⟩

/-- Settles O14: as for `SEL`, for each of the two codes of the class. -/
theorem othSetsInData : Obligations.OthSetsInData :=
  ⟨fun w => ⟨fun h => decodeWord_othK0 ((and_C_eq_iff w 0b00).1 h),
      fun h => decodeWord_othK3 ((and_C_eq_iff w 0b11).1 h)⟩,
    fun s => ⟨exec_quiet (i := .othK0) nofun s, exec_quiet (i := .othK3) nofun s⟩⟩

end Sys2Proof.Machine
end

section
/-! PROOFS. 40_event_sequencing.md section 4, the cycle (R68, R71): a `SEL`, an accepted address byte, and a burst of data
bytes, of which each moves `cur_addr` on (R85 to R87) and none ends the cycle (R89). -/

namespace Sys2Proof.Machine

/-! ## The steps of a cycle -/

/-- The state that a `SEL` and an accepted address byte leave: that of a correctly begun cycle. -/
def State.beginCycle (first : Period) (rest : List Period) (s : State) : State :=
  { s with
    phase := .inData, dir := byteDir first.c2p, curAddr := byteAddr first.c2p, written := true
    feed := rest, tStart := first.tStart, tEnd := first.tEnd, drop := none
    out := some { cat := .address, addr := byteAddr first.c2p, dir := byteDir first.c2p, data := none,
                  tStart := first.tStart, tEnd := first.tEnd } }

theorem beginCycle_inCycle (first : Period) (rest : List Period) {s : State} (h : s.cfg.verbosity = .full) :
    (s.beginCycle first rest).inCycle (byteDir first.c2p) = true :=
  (inCycle_iff _ _).2 ⟨rfl, h, rfl⟩

section Steps
variable {s : State} {p : Period} {rest : List Period}

theorem step_select (hf : s.feed = p :: rest) (hk : p.isKind .selectAsserted = true) :
    step s = .next (noOutput (recordKind .selectAsserted (presentPeriod p rest s))) := by
  obtain ⟨he, hk⟩ := (isKind_iff _ p).1 hk
  obtain ⟨hr, hv⟩ := (isEvent_iff p).1 he
  rw [step_cons hf, runPeriod_event _ hr hv, exec_fetchInstr_quiet _ (by rw [hk]; exact nofun), hk]

theorem step_exchange (hf : s.feed = p :: rest) (hk : p.isKind .dataExchange = true) :
    step s = .next (exchange (optByte p.c2pValid p.c2p) (optByte p.p2cValid p.p2c) (presentPeriod p rest s)) :=
  (step_cons hf).trans (runPeriod_exchange _ hk)

/-- The step that accepts an address byte (R72). -/
theorem step_addressSlot (hs : s.phase = .awaitingAddress) (hf : s.feed = p :: rest) (hp : p.isAddressSlot = true) :
    step s = .next (emit (addressEvent (byteDir p.c2p) (byteAddr p.c2p) (presentPeriod p rest s))
      (writeAddress (byteDir p.c2p) (byteAddr p.c2p) (recordKind .dataExchange (presentPeriod p rest s)))) := by
  obtain ⟨hk, hc⟩ : p.isKind .dataExchange = true ∧ p.c2pValid = true := by
    simpa only [Period.isAddressSlot, Bool.and_eq_true] using hp
  rw [step_exchange hf hk, hc]
  exact congrArg Host.Outcome.next (exchange_awaiting_present (s := presentPeriod p rest s) hs _ _)

/-- A `SEL` is quiet, and the address byte after it begins the cycle from any state (R116). -/
theorem cycle_begins {first : Period} (hf : s.feed = p :: first :: rest) (hp : p.isKind .selectAsserted = true)
    (hfirst : first.isAddressSlot = true) :
    ∃ u, step s = .next u ∧ u.out = none ∧ step u = .next (s.beginCycle first rest) :=
  ⟨_, step_select hf hp, rfl, step_addressSlot rfl rfl hfirst⟩

/-- The step that accepts a data byte of the cycle: what it reports and where it leaves the cycle (R81, R82). -/
theorem step_slot {w : Direction} (hs : s.inCycle w = true) (hf : s.feed = p :: rest) (hp : p.isSlot w = true) :
    ∃ t, step s = .next t ∧ t.inCycle w = true ∧ t.cfg = s.cfg ∧ t.feed = rest ∧
      t.written = s.written ∧ t.curAddr = nextAddr s.cfg.fifoAddr s.curAddr ∧
      t.out = some { cat := dataCategory w, addr := s.curAddr, dir := w, data := p.slotByte w,
                     tStart := p.tStart, tEnd := p.tEnd } := by
  obtain ⟨hk, b, hb⟩ := (isSlot_iff w p).1 hp
  obtain ⟨-, hv, hd⟩ := (inCycle_iff w s).1 hs
  refine ⟨_, step_exchange hf hk, ?_⟩
  rw [exchange_of_inCycle_present (s := presentPeriod p rest s) hs hb, hb]
  exact ⟨(inCycle_iff _ _).2 ⟨rfl, hv, hd⟩, rfl, rfl, rfl, rfl, rfl⟩

end Steps

/-! ## Runs, step by step -/

theorem outputs_succ {s t : State} (h : step s = .next t) (k : Nat) :
    outputs (k + 1) s = t.out.toList ++ outputs k t := by
  rw [outputs, h]

theorem runAlone_succ {s t : State} (h : step s = .next t) (k : Nat) :
    runAlone (k + 1) (.next s) = runAlone k (.next t) :=
  congrArg (runAlone k) h

/-! ## The burst (R85 to R87) -/

/-- A burst from the next address is the burst, one byte on. -/
theorem burstAddr_nextAddr (fifo a : Addr) (k : Nat) :
    burstAddr fifo (nextAddr fifo a) k = burstAddr fifo a (k + 1) := by
  induction k with
  | zero => rfl
  | succ k ih => exact congrArg (nextAddr fifo) ih

/-- In a cycle, any number of slots is reported slot by slot, and leaves the cycle at the burst's next address. -/
theorem burst_reported {w : Direction} {slots rest : List Period} {s : State} (hs : s.inCycle w = true)
    (hf : s.feed = slots ++ rest) (hslots : ∀ p ∈ slots, p.isSlot w = true) :
    outputs slots.length s = burstEvents s.cfg.fifoAddr w s.curAddr slots ∧
    ∃ t, runAlone slots.length (.next s) = .next t ∧ t.inCycle w = true ∧ t.feed = rest ∧
      t.curAddr = burstAddr s.cfg.fifoAddr s.curAddr slots.length := by
  induction slots generalizing s with
  | nil => exact ⟨rfl, s, rfl, hs, hf, rfl⟩
  | cons p ps ih =>
    obtain ⟨hp, hps⟩ := List.forall_mem_cons.1 hslots
    obtain ⟨t, hstep, hcycle, hcfg, hfeed, -, haddr, hout⟩ := step_slot hs hf hp
    obtain ⟨houtputs, u, hrun, hu⟩ := ih hcycle hfeed hps
    rw [hcfg, haddr] at houtputs hu
    rw [burstAddr_nextAddr] at hu
    refine ⟨?_, u, (runAlone_succ hstep _).trans hrun, hu⟩
    calc outputs (ps.length + 1) s = t.out.toList ++ outputs ps.length t := outputs_succ hstep _
      _ = burstEvents s.cfg.fifoAddr w s.curAddr (p :: ps) := by rw [hout, houtputs]; rfl

/-- Settles O42: the `SEL` and the address byte begin the cycle with one event, and the slots are its burst. -/
theorem wholeCycleReported : Obligations.WholeCycleReported := by
  intro s sel first slots rest hf hv hsel hfirst hslots
  obtain ⟨u, hstep₁, hquiet, hstep₂⟩ := cycle_begins hf hsel hfirst
  obtain ⟨houtputs, t, hrun, hcycle, hfeed, haddr⟩ :=
    burst_reported (beginCycle_inCycle first (slots ++ rest) hv) rfl hslots
  obtain ⟨hphase, -, hdir⟩ := (inCycle_iff _ t).1 hcycle
  rw [Nat.add_comm 2]
  constructor
  · rw [outputs_succ hstep₁, outputs_succ hstep₂, hquiet, houtputs]
    rfl
  · exact ⟨t, (runAlone_succ hstep₁ _).trans ((runAlone_succ hstep₂ _).trans hrun), hphase, hfeed, hdir, haddr⟩

/-! ## The premise `BytesPresent` (R68) -/

theorem bytesPresent_cons {p : Period} {rest : List Period} (h : bytesPresent (p :: rest) = true)
    (hk : p.isKind .dataExchange = true) : p.c2pValid = true ∧ p.p2cValid = true := by
  simp only [bytesPresent, List.all_cons, hk, Bool.not_true, Bool.false_or, Bool.and_eq_true] at h
  exact h.1

/-- Settles O47: where both bytes are present the awaited address byte is accepted, and so is the byte that the
direction selects. -/
theorem bytesPresentEveryExchangeEmits : Obligations.BytesPresentEveryExchangeEmits := by
  intro s p rest hf hb hk hv
  obtain ⟨hc, hp⟩ := bytesPresent_cons (hf ▸ hb) hk
  cases hs : s.phase with
  | awaitingAddress =>
    have hslot : p.isAddressSlot = true := by simp [Period.isAddressSlot, hk, hc]
    exact ⟨_, _, step_addressSlot hs hf hslot, rfl, fun _ => rfl⟩
  | inData =>
    have hslot : p.isSlot s.dir = true := by
      cases hd : s.dir <;> simp [Period.isSlot, Period.slotByte, selectByte, hk, hc, hp]
    obtain ⟨t, hstep, -, -, -, hwritten, -, hout⟩ := step_slot ((inCycle_iff _ s).2 ⟨hs, hv, rfl⟩) hf hslot
    exact ⟨t, _, hstep, hout, fun h => hwritten.trans (h.resolve_right nofun)⟩

end Sys2Proof.Machine
end

section
/-! PROOFS. 41_address_phase.md, the address byte: a present one is accepted and an absent one dropped
(R72, R75), bit 7 tells the direction of the cycle that it starts (R73, R74), and no other instruction writes the
cycle. -/

namespace Sys2Proof.Machine

/-! ## The word of an address phase -/

theorem wordC2p_of_isSome {w : EventWord} (h : (wordC2p w).isSome = true) :
    wordC2p w = some (w.extractLsb' 8 8) := by
  rw [wordC2p, optByte_isSome] at h
  rw [wordC2p, h]
  rfl

theorem decodeIn_xferA {w : EventWord} (h : w &&& 0xE0000 = 0xA0000) (v : Verbosity) (d : Direction) :
    decodeIn .awaitingAddress v d w =
      .xferA (byteDir (w.extractLsb' 8 8)) (byteAddr (w.extractLsb' 8 8)) (wordP2c w) := by
  obtain ⟨hk, hc⟩ := (and_E_eq_iff w 0b10 true).1 h
  rw [decodeIn_of_xfer (decodeWord_xfer hk), wordC2p_of_isSome hc, rowOf_a]

theorem decodeIn_xferADrop {w : EventWord} (h : w &&& 0xE0000 = 0x80000) (v : Verbosity) (d : Direction) :
    decodeIn .awaitingAddress v d w = .xferADrop (wordP2c w) := by
  obtain ⟨hk, hc⟩ := (and_E_eq_iff w 0b10 false).1 h
  have hnone : wordC2p w = none := by simpa using hc
  rw [decodeIn_of_xfer (decodeWord_xfer hk), hnone, rowOf_aDrop]

/-! ## The outcome of an awaited address byte -/

/-- The state in which an accepted address byte leaves the cycle (R72), field by field. -/
theorem exec_xferA_awaiting {s : State} (h : s.phase = .awaitingAddress) (d : Direction) (a : Addr)
    (p : Option Byte) :
    exec (.xferA d a p) s = .next { s with
      phase := .inData, dir := d, curAddr := a, written := true, drop := none
      out := some { cat := .address, addr := a, dir := d, data := none, tStart := s.tStart, tEnd := s.tEnd } } :=
  if_pos h

/-- The umbrella event with a present byte is the row `XFER.A` of that byte's fields, in every state. -/
theorem exec_xfer_present (b : Byte) (p : Option Byte) (s : State) :
    exec (.xfer (some b) p) s = exec (.xferA (byteDir b) (byteAddr b) p) s := by
  rw [exec_of_exchange (i := .xferA _ _ p) rfl, Instr.c2p, addressByte_fields]
  rfl

/-- While an address byte is awaited the peripheral's byte is not read (R76). -/
theorem exchange_awaiting_p2c_unread {s : State} (h : s.phase = .awaitingAddress) (c p p' : Option Byte) :
    exchange c p s = exchange c p' s := by
  rw [exchange_awaiting c p h, exchange_awaiting c p' h]

/-! ## The only writer of `dir` (R72) -/

/-- An exchange that accepts no address byte keeps the direction, and `cur_addr` or moves it on. -/
theorem exchange_keeps_cycle {c p : Option Byte} {s : State}
    (h : ¬ (s.phase = .awaitingAddress ∧ c.isSome = true)) :
    (exchange c p s).dir = s.dir ∧ (exchange c p s).written = s.written ∧ (exchange c p s).resets = s.resets ∧
      ((exchange c p s).curAddr = s.curAddr ∨
        (exchange c p s).curAddr = nextAddr s.cfg.fifoAddr s.curAddr) := by
  obtain ⟨-, -, e⟩ | ⟨b, hp, hc, -⟩ | ⟨-, -, e⟩ | ⟨-, -, -, e⟩ | ⟨b, -, -, -, e⟩ := exchange_cases c p s
  · rw [e]; exact ⟨rfl, rfl, rfl, .inl rfl⟩
  · exact absurd ⟨hp, by rw [hc]; rfl⟩ h
  · rw [e]; exact ⟨rfl, rfl, rfl, .inl rfl⟩
  · rw [e]; exact ⟨rfl, rfl, rfl, .inl rfl⟩
  · rw [e]; exact ⟨rfl, rfl, rfl, .inr rfl⟩

/-- Settles O15: the row's outcome is its own rule, the umbrella event is the row, and of all other instructions only an
accepted data byte writes `cur_addr` and none writes `dir`. -/
theorem addressByteAccepted : Obligations.AddressByteAccepted := by
  refine ⟨fun v d w h => decodeIn_xferA h v d, fun s d a p h => exec_xferA_awaiting h d a p,
    fun s b p _ => exec_xfer_present b p s, ?_⟩
  intro i s t h hnot
  obtain ⟨-, e⟩ | ⟨hk, e⟩ := exec_cases i s <;> obtain rfl := Host.Outcome.next.inj (e.symm.trans h)
  · exact ⟨rfl, rfl, rfl, .inl rfl⟩
  · exact exchange_keeps_cycle fun ⟨hp, hc⟩ => hnot ⟨hp, hk, hc⟩

/-- Settles O18: the decoder by the mask, the row by its own rule, and the umbrella event by the row. -/
theorem absentAddressByteDropped : Obligations.AbsentAddressByteDropped :=
  ⟨fun v d _ h => decodeIn_xferADrop h v d,
    fun s p h => ⟨if_pos h, (execXferADrop_eq p s).symm.trans (if_pos h)⟩⟩

/-! ## The two rows of the address byte (R73, R74) -/

/-- While an address byte is awaited a present byte has the outcome of its own row, `ADDR.RD` or `ADDR.WR`. -/
theorem exec_xfer_awaiting_decodeByte {s : State} (h : s.phase = .awaitingAddress) (b : Byte) (p : Option Byte) :
    exec (.xfer (some b) p) s = exec (decodeByte b) s :=
  (congrArg Host.Outcome.next (exchange_awaiting_p2c_unread h (some b) p none)).trans (exec_decodeByte b s).symm

theorem byteDir_eq_read {b : Byte} (h : b.getLsbD 7 = false) : byteDir b = .read := by
  rw [byteDir, h]
  rfl

theorem byteDir_eq_write {b : Byte} (h : b.getLsbD 7 = true) : byteDir b = .write := if_pos h

theorem decodeByte_read {b : Byte} (h : b.getLsbD 7 = false) : decodeByte b = .addrRd (byteAddr b) := by
  rw [decodeByte, byteDir_eq_read h]

theorem decodeByte_write {b : Byte} (h : b.getLsbD 7 = true) : decodeByte b = .addrWr (byteAddr b) := by
  rw [decodeByte, byteDir_eq_write h]

theorem byteAddr_toNat_of_read {b : Byte} (h : b.getLsbD 7 = false) : (byteAddr b).toNat = b.toNat := by
  have hb : ¬ 128 ≤ b.toNat := by simp [← byteDir_eq_write_iff, byteDir_eq_read h]
  rw [byteAddr_toNat]
  omega

theorem byteAddr_toNat_of_write {b : Byte} (h : b.getLsbD 7 = true) : (byteAddr b).toNat = b.toNat - 0x80 := by
  have hb : 128 ≤ b.toNat := (byteDir_eq_write_iff b).1 (byteDir_eq_write h)
  have hlt : b.toNat < 256 := b.isLt
  rw [byteAddr_toNat]
  omega

/-- Settles O16: a byte with bit 7 clear is its own address, and its row is `XFER.A` with the direction Read. -/
theorem addressByteStartsRead : Obligations.AddressByteStartsRead := by
  refine ⟨fun b hb => ⟨decodeByte_read hb, byteAddr_toNat_of_read hb, fun s p h => ?_⟩,
    fun s a h => exec_xferA_awaiting h .read a none, fun _ _ => rfl⟩
  rw [exec_xfer_awaiting_decodeByte h, decodeByte_read hb]

/-- Settles O17: a byte with bit 7 set is its address and 0x80, and its row is `XFER.A` with the direction Write. -/
theorem addressByteStartsWrite : Obligations.AddressByteStartsWrite := by
  refine ⟨fun b hb => ⟨decodeByte_write hb, byteAddr_toNat_of_write hb, fun s p h => ?_⟩,
    fun s a h => exec_xferA_awaiting h .write a none, fun _ _ => rfl⟩
  rw [exec_xfer_awaiting_decodeByte h, decodeByte_write hb]

end Sys2Proof.Machine
end

section
/-! PROOFS. 41_address_phase.md, what an exchange does not depend on: the byte of the slot that is not
read (R76, R90) and, in the address phase, `VERBOSITY` (R79). -/

namespace Sys2Proof.Machine

/-! ## The byte that is not read -/

/-- In the data phase two events with the same selected byte have one outcome. -/
theorem exchange_inData_congr {s : State} (h : s.phase = .inData) {c p c' p' : Option Byte}
    (hb : selectByte s.dir c p = selectByte s.dir c' p') : exchange c p s = exchange c' p' s := by
  rw [exchange_inData c p h, exchange_inData c' p' h]
  simp only [dataArm, recordKind_dir, hb]

/-- While an address byte is awaited there is an output exactly when the byte is present. -/
theorem exchange_awaiting_out_isSome_iff {s : State} (h : s.phase = .awaitingAddress) (c p : Option Byte) :
    (exchange c p s).out.isSome = true ↔ c.isSome = true := by
  simp [exchange_out_isSome_iff, h]

/-- Settles O19: the address arm is not given the peripheral's byte, and the data arm reads the selected byte alone. -/
theorem unreadByteHasNoEffect : Obligations.UnreadByteHasNoEffect := by
  constructor
  · intro s c p p' h
    exact ⟨congrArg Host.Outcome.next (exchange_awaiting_p2c_unread h c p p'), _, rfl,
      exchange_awaiting_out_isSome_iff h c p⟩
  · intro s c c' p p' h
    constructor
    · intro hd
      exact congrArg Host.Outcome.next (exchange_inData_congr h (by rw [hd]; rfl))
    · intro hd
      exact congrArg Host.Outcome.next (exchange_inData_congr h (by rw [hd]; rfl))

/-! ## `VERBOSITY` in the address phase (R79) -/

/-- The state bound to another verbosity. -/
def State.rebindVerbosity (v : Verbosity) (s : State) : State := { s with cfg := { s.cfg with verbosity := v } }

theorem addressArm_rebindVerbosity (v : Verbosity) (c : Option Byte) (s : State) :
    addressArm c (s.rebindVerbosity v) = (addressArm c s).rebindVerbosity v := by
  cases c <;> rfl

theorem exchange_awaiting_rebindVerbosity {s : State} (h : s.phase = .awaitingAddress) (v : Verbosity)
    (c p : Option Byte) : exchange c p (s.rebindVerbosity v) = (exchange c p s).rebindVerbosity v := by
  rw [exchange_awaiting c p h, exchange_awaiting (s := s.rebindVerbosity v) c p h]
  exact addressArm_rebindVerbosity v c (recordKind .dataExchange s)

/-- Settles O20: the address arm runs alike under every verbosity, and in a cycle of only an address byte the `SEL` is
quiet. -/
theorem verbosityIgnoredInAddressPhase : Obligations.VerbosityIgnoredInAddressPhase := by
  constructor
  · intro s v c p h
    exact ⟨_, rfl, congrArg Host.Outcome.next (exchange_awaiting_rebindVerbosity h v c p),
      (exchange_emits_address_iff c p s).trans (and_iff_right h)⟩
  · intro s sel first rest hf hsel hfirst
    obtain ⟨u, hstep₁, hquiet, hstep₂⟩ := cycle_begins hf hsel hfirst
    have hout : outputs 2 s = [addressEvent (byteDir first.c2p) (byteAddr first.c2p) (presentPeriod first rest s)] := by
      rw [outputs_succ hstep₁, outputs_succ hstep₂, hquiet]
      rfl
    exact ⟨_, hout, rfl⟩

end Sys2Proof.Machine
end

section
/-! PROOFS. 42_data_phase.md, the address (R86 to R88): the increment as arithmetic, the addresses of a burst in closed
form, and what each instruction does to `cur_addr`. -/

namespace Sys2Proof.Machine

/-! ## The increment (R86, R87) -/

@[simp] theorem nextAddr_fifo (fifo : Addr) : nextAddr fifo fifo = fifo := if_pos rfl

theorem nextAddr_of_ne {fifo a : Addr} (h : a ≠ fifo) : nextAddr fifo a = a + 1 := if_neg h

/-- Settles O36: at `FIFO_ADDR` the address is held, elsewhere the addition of seven-bit words wraps. -/
theorem incrementWrapsAndHolds : Obligations.IncrementWrapsAndHolds := by
  intro fifo a
  by_cases h : a = fifo
  · rw [h, nextAddr_fifo, if_pos rfl]
  · rw [nextAddr_of_ne h, if_neg h, BitVec.toNat_add]
    rfl

/-- The increment, written as the rules of the data rows write it. -/
theorem nextAddr_eq_ofNat (fifo a : Addr) :
    nextAddr fifo a = if a = fifo then a else BitVec.ofNat 7 ((a.toNat + 1) % 128) := by
  apply BitVec.eq_of_toNat_eq
  rw [incrementWrapsAndHolds, apply_ite BitVec.toNat, BitVec.toNat_ofNat, Nat.mod_mod]

/-! ## The addresses of a burst (R88) -/

/-- Counting up from an address meets `FIFO_ADDR` for the first time at the distance between them. -/
theorem add_ofNat_eq_fifo_iff {fifo a : Addr} {k : Nat} (hk : k < 128) :
    a + BitVec.ofNat 7 k = fifo ↔ k = (fifo - a).toNat := by
  rw [← eq_sub_iff_add_eq', ← BitVec.toNat_inj, BitVec.toNat_ofNat, Nat.mod_eq_of_lt hk]

theorem distance_lt (fifo a : Addr) : (fifo - a).toNat < 128 := (fifo - a).isLt

/-- Up to the distance no increment is held, and from then on every one is. -/
theorem burstAddr_eq (fifo a : Addr) (k : Nat) :
    burstAddr fifo a k = if k ≤ (fifo - a).toNat then a + BitVec.ofNat 7 k else fifo := by
  have hlt := distance_lt fifo a
  induction k with
  | zero => simp [burstAddr]
  | succ k ih =>
    rw [burstAddr, ih]
    obtain h | h | h := lt_trichotomy k (fifo - a).toNat
    · have hne : a + BitVec.ofNat 7 k ≠ fifo := fun he => h.ne ((add_ofNat_eq_fifo_iff (by omega)).1 he)
      rw [if_pos h.le, if_pos (Nat.succ_le_of_lt h), nextAddr_of_ne hne, BitVec.ofNat_add, ← add_assoc]
      rfl
    · rw [if_pos h.le, if_neg (by omega), (add_ofNat_eq_fifo_iff (by omega)).2 h, nextAddr_fifo]
    · rw [if_neg (by omega), if_neg (by omega), nextAddr_fifo]

/-- Settles O41: the closed form, and that no address is further than 127 increments from `FIFO_ADDR`. -/
theorem burstAddressClosedForm : Obligations.BurstAddressClosedForm := by
  refine fun fifo a k => ⟨burstAddr_eq fifo a k, fun hk => ?_⟩
  have hlt := distance_lt fifo a
  rw [burstAddr_eq]
  split
  · exact (add_ofNat_eq_fifo_iff (by omega)).2 (by omega)
  · rfl

/-! ## What an instruction does to `cur_addr` (R15, R86, R91) -/

theorem exchange_awaiting_curAddr {s : State} (h : s.phase = .awaitingAddress) (c p : Option Byte) :
    (exchange c p s).curAddr = (c.map byteAddr).getD s.curAddr := by
  rw [exchange_awaiting c p h]
  cases c <;> rfl

/-- An accepted data byte moves `cur_addr` on. -/
theorem exchange_curAddr_of_accepted {c p : Option Byte} {s : State} (h : s.phase = .inData)
    (ho : (exchange c p s).out.isSome = true) :
    (exchange c p s).curAddr = nextAddr s.cfg.fifoAddr s.curAddr := by
  obtain ⟨hp, -⟩ | ⟨-, hv, hb⟩ := (exchange_out_isSome_iff c p s).1 ho
  · exact absurd (h.symm.trans hp) nofun
  · obtain ⟨b, hb⟩ := Option.isSome_iff_exists.1 hb
    rw [exchange_of_inCycle_present ((inCycle_iff _ s).2 ⟨h, hv, rfl⟩) hb]
    rfl

/-- An exchange without output keeps `cur_addr`. -/
theorem exchange_curAddr_of_quiet {c p : Option Byte} {s : State} (ho : (exchange c p s).out = none) :
    (exchange c p s).curAddr = s.curAddr := by
  obtain ⟨-, -, e⟩ | ⟨b, -, -, e⟩ | ⟨-, -, e⟩ | ⟨-, -, -, e⟩ | ⟨b, -, -, -, e⟩ := exchange_cases c p s <;>
    rw [e] at ho ⊢
  · rfl
  · exact absurd ho nofun
  · rfl
  · rfl
  · exact absurd ho nofun

/-- Settles O35: an event of another kind keeps `cur_addr` and has no output, and an exchange sets it, moves it on or
keeps it. -/
theorem currentAddressUpdate : Obligations.CurrentAddressUpdate := by
  intro i s t h
  obtain ⟨hk, e⟩ | ⟨-, e⟩ := exec_cases i s <;> obtain rfl := Host.Outcome.next.inj (e.symm.trans h)
  · exact ⟨fun hx => absurd hx hk, fun _ ho => absurd ho nofun, fun _ => rfl⟩
  · refine ⟨fun _ hp => exchange_awaiting_curAddr hp _ _, fun hp ho => ?_, exchange_curAddr_of_quiet⟩
    rw [exchange_curAddr_of_accepted hp ho, incrementWrapsAndHolds]

end Sys2Proof.Machine
end

section
/-! PROOFS. 42_data_phase.md, the rows (R80 to R84, R91): the decoder by the row's mask, and the
outcome of the row and of the umbrella event as the fields that the rule writes. -/

namespace Sys2Proof.Machine

/-! ## The word of a data phase -/

theorem wordP2c_of_isSome {w : EventWord} (h : (wordP2c w).isSome = true) :
    wordP2c w = some (w.extractLsb' 0 8) := by
  rw [wordP2c, optByte_isSome] at h
  rw [wordP2c, h]
  rfl

theorem decodeIn_xferW {w : EventWord} (h : w &&& 0xE0000 = 0xA0000) :
    decodeIn .inData .full .write w = .xferW (w.extractLsb' 8 8) (wordP2c w) := by
  obtain ⟨hk, hc⟩ := (and_E_eq_iff w 0b10 true).1 h
  rw [decodeIn_of_xfer (decodeWord_xfer hk), wordC2p_of_isSome hc, rowOf_w]

theorem decodeIn_xferWDrop {w : EventWord} (h : w &&& 0xE0000 = 0x80000) :
    decodeIn .inData .full .write w = .xferWDrop (wordP2c w) := by
  obtain ⟨hk, hc⟩ := (and_E_eq_iff w 0b10 false).1 h
  have hnone : wordC2p w = none := by simpa using hc
  rw [decodeIn_of_xfer (decodeWord_xfer hk), hnone, rowOf_wDrop]

theorem decodeIn_xferR {w : EventWord} (h : w &&& 0xD0000 = 0x90000) :
    decodeIn .inData .full .read w = .xferR (w.extractLsb' 0 8) (wordC2p w) := by
  obtain ⟨hk, hp⟩ := (and_D_eq_iff w 0b10 true).1 h
  rw [decodeIn_of_xfer (decodeWord_xfer hk), wordP2c_of_isSome hp, rowOf_r]

theorem decodeIn_xferRDrop {w : EventWord} (h : w &&& 0xD0000 = 0x80000) :
    decodeIn .inData .full .read w = .xferRDrop (wordC2p w) := by
  obtain ⟨hk, hp⟩ := (and_D_eq_iff w 0b10 false).1 h
  have hnone : wordP2c w = none := by simpa using hp
  rw [decodeIn_of_xfer (decodeWord_xfer hk), hnone, rowOf_rDrop]

theorem decodeIn_xferAO {w : EventWord} (h : w &&& 0xC0000 = 0x80000) (d : Direction) :
    decodeIn .inData .addressOnly d w = .xferAO (wordC2p w) (wordP2c w) := by
  rw [decodeIn_of_xfer (decodeWord_xfer ((and_C_eq_iff w 0b10).1 h)), rowOf_ao]

/-! ## The outcome of a data-phase exchange -/

/-- In the data phase an exchange writes `phase` with the value that it has. -/
theorem recordKind_exchange_inData {s : State} (h : s.phase = .inData) : recordKind .dataExchange s = s := by
  rw [recordKind, phaseAfter, ← h]

section InCycle
variable {s : State} {w : Direction} {c p : Option Byte}

/-- The present byte of a cycle is reported under `cur_addr`, which then moves on; nothing else is written. -/
theorem exchange_reports {d : Byte} (hs : s.inCycle w = true) (hb : selectByte w c p = some d) :
    exchange c p s = { s with
      curAddr := if s.curAddr = s.cfg.fifoAddr then s.curAddr else BitVec.ofNat 7 ((s.curAddr.toNat + 1) % 128)
      drop := none
      out := some { cat := dataCategory w, addr := s.curAddr, dir := w, data := some d,
                    tStart := s.tStart, tEnd := s.tEnd } } := by
  obtain ⟨hp, -, -⟩ := (inCycle_iff w s).1 hs
  rw [exchange_of_inCycle_present hs hb, recordKind_exchange_inData hp, ← nextAddr_eq_ofNat]
  rfl

/-- The absent byte of a cycle is dropped; no register is written. -/
theorem exchange_drops (hs : s.inCycle w = true) (hb : selectByte w c p = none) :
    exchange c p s = { s with out := none, drop := some .dataByteAbsent } := by
  obtain ⟨hp, -, -⟩ := (inCycle_iff w s).1 hs
  rw [exchange_of_inCycle_absent hs hb, recordKind_exchange_inData hp, dropEvent]

end InCycle

/-- Under `address_only` a data-phase exchange writes no register (R91). -/
theorem exchange_addressOnly {s : State} (hp : s.phase = .inData) (hv : s.cfg.verbosity = .addressOnly)
    (c p : Option Byte) : exchange c p s = { s with out := none, drop := none } := by
  rw [exchange_inData c p hp, recordKind_exchange_inData hp, dataArm_addressOnly c p hv, noOutput]

/-! ## The rows -/

/-- Settles O21: the decoder by the mask, and the row by the umbrella event, which reports the controller's byte. -/
theorem writeDataByteReported : Obligations.WriteDataByteReported := by
  refine ⟨fun w => decodeIn_xferW, fun s d p hp hv hd => ?_⟩
  have hrow : exec (.xferW d p) s = exec (.xfer (some d) p) s := execXferW_eq d p s
  exact ⟨hrow.symm, hrow.trans (congrArg Host.Outcome.next
    (exchange_reports ((inCycle_iff .write s).2 ⟨hp, hv, hd⟩) rfl))⟩

/-- Settles O22: as for O21, with the peripheral's byte. -/
theorem readDataByteReported : Obligations.ReadDataByteReported := by
  refine ⟨fun w => decodeIn_xferR, fun s d c hp hv hd => ?_⟩
  have hrow : exec (.xferR d c) s = exec (.xfer c (some d)) s := execXferR_eq d c s
  exact ⟨hrow.symm, hrow.trans (congrArg Host.Outcome.next
    (exchange_reports ((inCycle_iff .read s).2 ⟨hp, hv, hd⟩) rfl))⟩

/-- Settles O23: the decoder by the mask, and the row by the umbrella event, which drops the controller's byte. -/
theorem absentWriteByteDropped : Obligations.AbsentWriteByteDropped := by
  refine ⟨fun w => decodeIn_xferWDrop, fun s p hp hv hd => ?_⟩
  have hdrop : exec (.xfer none p) s = .next { s with out := none, drop := some .dataByteAbsent } :=
    congrArg Host.Outcome.next (exchange_drops ((inCycle_iff .write s).2 ⟨hp, hv, hd⟩) rfl)
  exact ⟨(execXferWDrop_eq p s).trans hdrop, hdrop⟩

/-- Settles O24: as for O23, with the peripheral's byte. -/
theorem absentReadByteDropped : Obligations.AbsentReadByteDropped := by
  refine ⟨fun w => decodeIn_xferRDrop, fun s c hp hv hd => ?_⟩
  have hdrop : exec (.xfer c none) s = .next { s with out := none, drop := some .dataByteAbsent } :=
    congrArg Host.Outcome.next (exchange_drops ((inCycle_iff .read s).2 ⟨hp, hv, hd⟩) rfl)
  exact ⟨(execXferRDrop_eq c s).trans hdrop, hdrop⟩

/-- Settles O25: the decoder by the mask of the class, and the row by the umbrella event, which is quiet. -/
theorem addressOnlyDataPhaseIsQuiet : Obligations.AddressOnlyDataPhaseIsQuiet := by
  refine ⟨fun d w h => decodeIn_xferAO h d, fun s c p hp hv => ?_⟩
  have hquiet : exec (.xfer c p) s = .next { s with out := none, drop := none } :=
    congrArg Host.Outcome.next (exchange_addressOnly hp hv c p)
  exact ⟨(execXferAO_eq c p s).trans hquiet, hquiet⟩

end Sys2Proof.Machine
end

section
/-! PROOFS. 42_data_phase.md, runs (R87, R89, R91): a property of the state that each step keeps while the delivered
periods are of a given sort holds after any number of them, and so does what each step's output has. -/

namespace Sys2Proof

/-- The period neither resets the decoder nor begins a new cycle. -/
def Period.staysInCycle (p : Period) : Bool := !p.rst && !p.isKind .selectAsserted

theorem staysInCycle_iff (p : Period) :
    p.staysInCycle = true ↔ p.rst = false ∧ p.isKind .selectAsserted = false := by
  simp [Period.staysInCycle]

/-- The event has the category and the direction of a cycle. -/
def OutEvent.ofCycle (w : Direction) (r : OutEvent) : Prop := r.cat = Machine.dataCategory w ∧ r.dir = w

namespace Machine

/-! ## Any number of steps -/

/-- A step always answers a next state, with the period it ran taken off the feed. -/
theorem step_answers (s : State) : ∃ t, step s = .next t ∧ t.feed = s.feed.tail := by
  cases hf : s.feed with
  | nil => exact ⟨_, step_nil hf, hf⟩
  | cons p rest =>
    rw [step_cons hf]
    obtain ⟨-, e⟩ | ⟨-, -, e⟩ | ⟨-, -, e⟩ | ⟨-, e⟩ := runPeriod_cases p
    · exact ⟨_, e _, rfl⟩
    · exact ⟨_, e _, rfl⟩
    · exact ⟨_, e _, rfl⟩
    · obtain ⟨hfeed, -, -⟩ := exchange_inputs _ _ (presentPeriod p rest s)
      exact ⟨_, e _, hfeed⟩

/-- If every step that is idle or runs a period of sort `g` keeps `P` and has only outputs of sort `Q`, then so does
any number of steps over periods of sort `g`. -/
theorem run_keeps {g : Period → Bool} {P : State → Prop} {Q : OutEvent → Prop}
    (hstep : ∀ s t, P s → (∀ p ∈ s.feed.head?, g p = true) → step s = .next t → P t ∧ ∀ r, t.out = some r → Q r)
    (k : Nat) {s : State} (hs : P s) (hg : (s.feed.take k).all g = true) :
    (∀ r ∈ outputs k s, Q r) ∧ (∀ t, runAlone k (.next s) = .next t → P t) := by
  induction k generalizing s with
  | zero => exact ⟨nofun, fun t ht => Host.Outcome.next.inj ht ▸ hs⟩
  | succ k ih =>
    obtain ⟨u, hu, hfeed⟩ := step_answers s
    have hsplit : (∀ p ∈ s.feed.head?, g p = true) ∧ (u.feed.take k).all g = true := by
      rw [hfeed]
      cases hf : s.feed with
      | nil => simp
      | cons p rest => simpa [hf] using hg
    obtain ⟨hhead, htail⟩ := hsplit
    obtain ⟨hP, hQ⟩ := hstep s u hs hhead hu
    obtain ⟨hout, hrun⟩ := ih hP htail
    rw [outputs_succ hu, runAlone_succ hu]
    refine ⟨fun r hr => ?_, hrun⟩
    obtain hr | hr := List.mem_append.1 hr
    · exact hQ r (Option.mem_toList.1 hr)
    · exact hout r hr

/-! ## `address_only` (R91) -/

theorem exchange_addressOnly_cat {c p : Option Byte} {s : State} {r : OutEvent}
    (hv : s.cfg.verbosity = .addressOnly) (hr : (exchange c p s).out = some r) : r.cat = .address := by
  obtain ⟨-, b, -, rfl⟩ | ⟨-, hfull, -⟩ := (exchange_out_eq_some_iff c p s r).1 hr
  · rfl
  · exact absurd (hv.symm.trans hfull) nofun

theorem step_addressOnly_cat {s t : State} {r : OutEvent} (hv : s.cfg.verbosity = .addressOnly)
    (h : step s = .next t) (hr : t.out = some r) : r.cat = .address := by
  obtain ⟨-, rfl⟩ | ⟨p, rest, -, hp⟩ := step_feed_cases h
  · exact absurd hr nofun
  · obtain ⟨-, e⟩ | ⟨-, -, e⟩ | ⟨-, -, e⟩ | ⟨-, e⟩ := runPeriod_cases p <;>
      obtain rfl := Host.Outcome.next.inj ((e _).symm.trans hp)
    · exact absurd hr nofun
    · exact absurd hr nofun
    · exact absurd hr nofun
    · exact exchange_addressOnly_cat (s := presentPeriod p rest s) hv hr

/-- Settles O38: no step changes the mode, and in it only an address byte is reported. -/
theorem addressOnlyEmitsOnlyAddresses : Obligations.AddressOnlyEmitsOnlyAddresses := by
  intro k s hv
  refine (run_keeps (g := fun _ => true) (P := fun u => u.cfg.verbosity = .addressOnly) ?_ k hv (by simp)).1
  intro u t hu _ h
  exact ⟨by rw [parametersNeverChange u t h, hu], fun r hr => step_addressOnly_cat hu h hr⟩

/-! ## Within a cycle (R87, R89) -/

/-- `t` is in the data phase of the cycle of `s`: with its direction and parameters, and at `FIFO_ADDR` if `s` was. -/
structure State.SameCycle (s t : State) : Prop where
  phase : t.phase = .inData
  dir : t.dir = s.dir
  written : t.written = s.written
  cfg : t.cfg = s.cfg
  hold : s.curAddr = s.cfg.fifoAddr → t.curAddr = s.cfg.fifoAddr

theorem sameCycle_refl {s : State} (h : s.phase = .inData) : s.SameCycle s := ⟨h, rfl, rfl, rfl, id⟩

theorem sameCycle_trans {s t u : State} (h : s.SameCycle t) (h' : t.SameCycle u) : s.SameCycle u where
  phase := h'.phase
  dir := h'.dir.trans h.dir
  written := h'.written.trans h.written
  cfg := h'.cfg.trans h.cfg
  hold := by
    intro ha
    have hhold := h'.hold
    rw [h.cfg] at hhold
    exact hhold (h.hold ha)

/-- At `FIFO_ADDR` an address that is kept or moved on stays. -/
theorem eq_fifo_of_kept_or_next {fifo a b : Addr} (h : b = a ∨ b = nextAddr fifo a) (ha : a = fifo) : b = fifo := by
  rwa [ha, nextAddr_fifo, or_self] at h

theorem noOutput_sameCycle {s : State} (h : s.phase = .inData) : s.SameCycle (noOutput s) :=
  ⟨h, rfl, rfl, rfl, id⟩

theorem recordKind_sameCycle (s : State) {k : Kind} (h : k ≠ .selectAsserted) : s.SameCycle (recordKind k s) := by
  refine ⟨?_, rfl, rfl, rfl, id⟩
  cases k with
  | selectAsserted => exact absurd rfl h
  | _ => rfl

theorem exchange_sameCycle {s : State} (h : s.phase = .inData) (c p : Option Byte) :
    s.SameCycle (exchange c p s) := by
  obtain ⟨hdir, hwritten, -, haddr⟩ := exchange_keeps_cycle (c := c) (p := p) (s := s) (by simp [h])
  exact ⟨exchange_phase c p s, hdir, hwritten, exchange_cfg c p s, eq_fifo_of_kept_or_next haddr⟩

theorem exchange_out_ofCycle {s : State} (h : s.phase = .inData) {c p : Option Byte} {r : OutEvent}
    (hr : (exchange c p s).out = some r) : r.ofCycle s.dir := by
  obtain ⟨hp, -⟩ | ⟨-, -, b, -, rfl⟩ := (exchange_out_eq_some_iff c p s r).1 hr
  · exact absurd (h.symm.trans hp) nofun
  · exact ⟨rfl, rfl⟩

theorem runPeriod_sameCycle {p : Period} {s t : State} (h : s.phase = .inData) (hp : p.staysInCycle = true)
    (ht : runPeriod p s = .next t) : s.SameCycle t ∧ ∀ r, t.out = some r → r.ofCycle s.dir := by
  obtain ⟨hrst, hsel⟩ := (staysInCycle_iff p).1 hp
  obtain ⟨hr, -⟩ | ⟨-, -, e⟩ | ⟨he, -, e⟩ | ⟨-, e⟩ := runPeriod_cases p
  · exact absurd (hrst.symm.trans hr) nofun
  · obtain rfl := Host.Outcome.next.inj ((e s).symm.trans ht)
    exact ⟨noOutput_sameCycle h, nofun⟩
  · obtain rfl := Host.Outcome.next.inj ((e s).symm.trans ht)
    have hk : kindOfBits p.kind ≠ .selectAsserted := fun hk => by simp [(isKind_iff _ p).2 ⟨he, hk⟩] at hsel
    have hrecord := recordKind_sameCycle s hk
    exact ⟨sameCycle_trans hrecord (noOutput_sameCycle hrecord.phase), nofun⟩
  · obtain rfl := Host.Outcome.next.inj ((e s).symm.trans ht)
    exact ⟨exchange_sameCycle h _ _, fun r hr => exchange_out_ofCycle h hr⟩

theorem step_sameCycle {s t : State} (h : s.phase = .inData) (hg : ∀ p ∈ s.feed.head?, p.staysInCycle = true)
    (ht : step s = .next t) : s.SameCycle t ∧ ∀ r, t.out = some r → r.ofCycle s.dir := by
  obtain ⟨-, rfl⟩ | ⟨p, rest, hf, hrun⟩ := step_feed_cases ht
  · exact ⟨noOutput_sameCycle h, nofun⟩
  · have hpresent : s.SameCycle (presentPeriod p rest s) := ⟨h, rfl, rfl, rfl, id⟩
    obtain ⟨hcycle, hout⟩ := runPeriod_sameCycle hpresent.phase (hg p (by rw [hf]; rfl)) hrun
    exact ⟨sameCycle_trans hpresent hcycle, hout⟩

/-- Without a reset or a `SEL` any number of periods stays in the cycle, and reports only its events. -/
theorem run_sameCycle (k : Nat) {s : State} (hs : s.phase = .inData)
    (hg : (s.feed.take k).all Period.staysInCycle = true) :
    (∀ r ∈ outputs k s, r.ofCycle s.dir) ∧ (∀ t, runAlone k (.next s) = .next t → s.SameCycle t) := by
  refine run_keeps ?_ k (sameCycle_refl hs) hg
  intro u t hu hp ht
  obtain ⟨hcycle, hout⟩ := step_sameCycle hu.phase hp ht
  rw [hu.dir] at hout
  exact ⟨sameCycle_trans hu hcycle, hout⟩

/-- Settles O39: the run stays in the cycle, whose state keeps the phase, the direction and its mark. -/
theorem directionFixedWithinCycle : Obligations.DirectionFixedWithinCycle := by
  intro k s hs hg
  obtain ⟨hout, hrun⟩ := run_sameCycle k hs hg
  refine ⟨hout, fun t ht => ?_⟩
  have hcycle := hrun t ht
  exact ⟨hcycle.phase, hcycle.dir, hcycle.written⟩

/-- Settles O40: the run stays in the cycle, which holds `FIFO_ADDR`, and of all instructions only an accepted address
byte does more to `cur_addr` than keep it or move it on. -/
theorem fifoHoldsUntilAddressByte : Obligations.FifoHoldsUntilAddressByte := by
  constructor
  · intro k s t hs ha hg ht
    obtain ⟨-, hrun⟩ := run_sameCycle k hs hg
    exact (hrun t ht).hold ha
  · intro i s t h ha hne
    by_contra hnot
    obtain ⟨-, -, -, hkeeps⟩ := addressByteAccepted
    obtain ⟨-, -, -, haddr⟩ := hkeeps i s t h hnot
    exact hne (eq_fifo_of_kept_or_next haddr ha)

end Machine

end Sys2Proof
end

section
/-! PROOFS. 43_names_and_display.md sections 1 and 5, the names: the Register Table in canonical form gives at an
address exactly the entry listed for it (R28, R94), and no step reads it, nor any other display parameter (R110). -/

namespace Sys2Proof

/-! ## The entry of a canonical table (R28) -/

theorem wfFrom_cons_iff (low k : Nat) (n : String) (t : NameTable) :
    NameTable.wfFrom low ((k, n) :: t) = true ↔ low ≤ k ∧ k < 128 ∧ NameTable.wfFrom (k + 1) t = true := by
  simp [NameTable.wfFrom, and_assoc]

/-- The entry a table gives is one that it lists. -/
theorem mem_of_entry {t : NameTable} {a : Addr} {n : String} (h : NameTable.entry t a = some n) :
    (a.toNat, n) ∈ t := by
  induction t with
  | nil => exact nomatch h
  | cons e t ih =>
    obtain ⟨k, m⟩ := e
    by_cases hk : k = a.toNat
    · subst hk
      rw [entry_cons_same] at h
      obtain rfl := Option.some.inj h
      exact List.mem_cons_self
    · rw [entry_cons_other hk] at h
      exact List.mem_cons_of_mem _ (ih h)

/-- The addresses of a table in canonical form rise, so that none is below the first one allowed. -/
theorem le_of_mem_wfFrom {low k : Nat} {n : String} {t : NameTable} (ht : NameTable.wfFrom low t = true)
    (h : (k, n) ∈ t) : low ≤ k := by
  induction t generalizing low with
  | nil => exact absurd h List.not_mem_nil
  | cons e t ih =>
    obtain ⟨k', m⟩ := e
    obtain ⟨hlow, -, hrest⟩ := (wfFrom_cons_iff _ _ _ _).1 ht
    obtain he | h := List.mem_cons.1 h
    · obtain ⟨rfl, -⟩ := Prod.mk.inj he
      exact hlow
    · have hk := ih hrest h
      omega

/-- What a table in canonical form lists for an address is its entry there: no listing before it has the address. -/
theorem entry_of_mem {low : Nat} {a : Addr} {n : String} {t : NameTable} (ht : NameTable.wfFrom low t = true)
    (h : (a.toNat, n) ∈ t) : NameTable.entry t a = some n := by
  induction t generalizing low with
  | nil => exact absurd h List.not_mem_nil
  | cons e t ih =>
    obtain ⟨k, m⟩ := e
    obtain ⟨-, -, hrest⟩ := (wfFrom_cons_iff _ _ _ _).1 ht
    obtain he | h := List.mem_cons.1 h
    · obtain ⟨rfl, rfl⟩ := Prod.mk.inj he
      exact entry_cons_same a n t
    · have hk := le_of_mem_wfFrom hrest h
      rw [entry_cons_other (by omega)]
      exact ih hrest h

namespace Machine

theorem nameOf_of_no_entry {c : Config} {a : Addr} (h : c.nameTable.entry a = none) : nameOf c a = c.sentinel := by
  simp [nameOf, h]

/-- Settles O55: both branches of the lookup, and in a canonical table the listings are the entries. -/
theorem nameLookupIsEntryOrSentinel : Obligations.NameLookupIsEntryOrSentinel :=
  ⟨fun _ _ => ⟨fun _ => nameOf_of_entry, nameOf_of_no_entry⟩, fun _ _ _ ht => ⟨mem_of_entry, entry_of_mem ht⟩⟩

/-! ## The step reads no display parameter (R110) -/

section Rebind
variable (st : Style) (names : NameTable) (sentinel : String) (chars : Vector String 161) (tw : Nat)

theorem addressArm_rebindDisplay (c : Option Byte) (s : State) :
    addressArm c (s.rebindDisplay st names sentinel chars tw) =
      (addressArm c s).rebindDisplay st names sentinel chars tw := by
  cases c <;> rfl

/-- Of the parameters the data phase reads `VERBOSITY` and `FIFO_ADDR` alone. -/
theorem dataArm_rebindDisplay (c p : Option Byte) (s : State) :
    dataArm c p (s.rebindDisplay st names sentinel chars tw) =
      (dataArm c p s).rebindDisplay st names sentinel chars tw := by
  cases hv : s.cfg.verbosity with
  | addressOnly =>
    rw [dataArm_addressOnly c p hv, dataArm_addressOnly (s := s.rebindDisplay st names sentinel chars tw) c p hv]
    rfl
  | full =>
    cases hb : selectByte s.dir c p with
    | none => rw [dataArm_absent hv hb, dataArm_absent (s := s.rebindDisplay st names sentinel chars tw) hv hb]; rfl
    | some b => rw [dataArm_present hv hb, dataArm_present (s := s.rebindDisplay st names sentinel chars tw) hv hb]; rfl

theorem exchange_rebindDisplay (c p : Option Byte) (s : State) :
    exchange c p (s.rebindDisplay st names sentinel chars tw) =
      (exchange c p s).rebindDisplay st names sentinel chars tw := by
  cases hp : s.phase with
  | awaitingAddress =>
    rw [exchange_awaiting c p hp, exchange_awaiting (s := s.rebindDisplay st names sentinel chars tw) c p hp]
    exact addressArm_rebindDisplay st names sentinel chars tw c (recordKind .dataExchange s)
  | inData =>
    rw [exchange_inData c p hp, exchange_inData (s := s.rebindDisplay st names sentinel chars tw) c p hp]
    exact dataArm_rebindDisplay st names sentinel chars tw c p (recordKind .dataExchange s)

theorem runPeriod_rebindDisplay (p : Period) (s : State) :
    runPeriod p (s.rebindDisplay st names sentinel chars tw) =
      mapNext (State.rebindDisplay st names sentinel chars tw) (runPeriod p s) := by
  obtain ⟨-, e⟩ | ⟨-, -, e⟩ | ⟨-, -, e⟩ | ⟨-, e⟩ := runPeriod_cases p <;> rw [e, e]
  · rfl
  · rfl
  · rfl
  · rw [exchange_rebindDisplay]; rfl

end Rebind

/-- Settles O54: an idle step reads no parameter, and the period that any other step runs reads none of these. -/
theorem displayParametersUnread : Obligations.DisplayParametersUnread := by
  intro s st names sentinel chars tw
  cases hf : s.feed with
  | nil =>
    rw [step_nil hf, step_nil (s := s.rebindDisplay st names sentinel chars tw) hf]
    rfl
  | cons p rest =>
    rw [step_cons hf, step_cons (s := s.rebindDisplay st names sentinel chars tw) hf]
    exact runPeriod_rebindDisplay st names sentinel chars tw p (presentPeriod p rest s)

end Machine

end Sys2Proof
end

section
/-! PROOFS. 43_names_and_display.md sections 3 to 5, the strings: the two digits of a byte (R102), its character
(R106), and the display value of each category (R103 to R105). -/

namespace Sys2Proof.Machine

/-! ## Digits and characters (R102, R106) -/

/-- Below 16 the default digit is never taken. -/
theorem hexDigit_eq {n : Nat} (h : n < 16) : hexDigit n = "0123456789ABCDEF".toList[n]! := by
  have hlen : n < "0123456789ABCDEF".toList.length := h
  rw [hexDigit, List.getD_eq_getElem _ _ hlen, getElem!_pos _ n hlen]

theorem hex2_toList (v : Byte) : (hex2 v).toList = [hexDigit (v.toNat / 16), hexDigit (v.toNat % 16)] :=
  String.toList_ofList

theorem charOf_printable (c : Config) {d : Byte} (h1 : 0x20 ≤ d.toNat) (h2 : d.toNat ≤ 0x7E) :
    (charOf c d).toList = [Char.ofNat d.toNat] := by
  rw [charOf, openIndex_printable h1 h2]
  exact String.toList_ofList

theorem charOf_bindCharOf (c : Config) (f : Byte → String) {d : Byte} (h : d.toNat < 0x20 ∨ 0x7E < d.toNat) :
    charOf (bindCharOf f c) d = f d := by
  obtain ⟨k, hk, hbyte⟩ := openIndex_open h
  rw [charOf, hk, ← hbyte]
  exact Vector.getElem_ofFn k.isLt

/-- Settles O57: the digits are those of the quotient and the remainder by 16, the worked values by evaluation, and
`CHAR_OF` on its fixed and on its open range. -/
theorem hexAndCharStrings : Obligations.HexAndCharStrings := by
  refine ⟨fun v => ?_, by decide, by decide, by decide, by decide, by decide, fun c d => charOf_printable c,
    fun c f d => charOf_bindCharOf c f⟩
  have hhi : v.toNat / 16 < 16 := by omega
  have hlo : v.toNat % 16 < 16 := by omega
  refine ⟨v.toNat / 16, v.toNat % 16, hhi, hlo, by omega, ?_⟩
  rw [hex2_toList, hexDigit_eq hhi, hexDigit_eq hlo]

/-! ## The rendered event (R101, R103 to R109) -/

/-- Settles O58: each field is that of `render`, and the five strings are the fixed ones. -/
theorem renderedEventFields : Obligations.RenderedEventFields :=
  ⟨fun _ _ => ⟨rfl, rfl, rfl, rfl, rfl⟩, rfl, rfl⟩

theorem display_of_address (c : Config) {r : OutEvent} (h : r.cat = .address) :
    display c r = displayAddress c.style r.addr := by
  simp only [display, h]

theorem display_of_data (c : Config) {r : OutEvent} {d : Byte} (h : r.cat ≠ .address) (hd : r.data = some d) :
    display c r = displayData c r.dir d := by
  cases hc : r.cat with
  | address => exact absurd hc h
  | read => simp only [display, hc, hd]
  | write => simp only [display, hc, hd]

/-- Settles O59: an address event shows its address, the others their byte, each by the style. -/
theorem displayValueByStyle : Obligations.DisplayValueByStyle := by
  intro c r _
  exact ⟨fun h => display_of_address c h, fun d h hd => display_of_data c h hd⟩

end Sys2Proof.Machine
end

section
/-! PROOFS. 60_exceptions.md: the two sites at which an exchange drops its event and what a dropped event leaves (R112,
R113), the one step that reads an unwritten register (R124), and the decoder that never stops and recovers at the next
cycle (R116). -/

namespace Sys2Proof.Machine

/-! ## The drop sites (R112, R113) -/

/-- The drops of an exchange: the absent address byte and, in full decode, the absent data byte. -/
theorem exchange_drop_eq_some_iff (c p : Option Byte) (s : State) (site : DropSite) :
    (exchange c p s).drop = some site ↔
      (s.phase = .awaitingAddress ∧ c = none ∧ .addrByteAbsent = site) ∨
      (s.phase = .inData ∧ s.cfg.verbosity = .full ∧ selectByte s.dir c p = none ∧ .dataByteAbsent = site) := by
  obtain ⟨hp, hb, e⟩ | ⟨b, hp, hb, e⟩ | ⟨hp, hv, e⟩ | ⟨hp, hv, hb, e⟩ | ⟨b, hp, hv, hb, e⟩ :=
    exchange_cases c p s <;> rw [e]
  · simp [hp, hb]
  · simp [hp, hb]
  · simp [hp, hv]
  · simp [hp, hv, hb]
  · simp [hp, hb]

theorem exchange_drops_address_iff (c p : Option Byte) (s : State) :
    (exchange c p s).drop = some .addrByteAbsent ↔ s.phase = .awaitingAddress ∧ c = none := by
  simp [exchange_drop_eq_some_iff]

theorem exchange_drops_data_iff (c p : Option Byte) (s : State) :
    (exchange c p s).drop = some .dataByteAbsent ↔
      s.phase = .inData ∧ s.cfg.verbosity = .full ∧ selectByte s.dir c p = none := by
  simp [exchange_drop_eq_some_iff]

/-- A dropped event writes `phase` and no other register (R113). -/
theorem exchange_of_drop {c p : Option Byte} {s : State} (h : (exchange c p s).drop ≠ none) :
    exchange c p s = { s with phase := .inData, out := none, drop := (exchange c p s).drop } := by
  obtain ⟨-, -, e⟩ | ⟨b, -, -, e⟩ | ⟨-, -, e⟩ | ⟨-, -, -, e⟩ | ⟨b, -, -, -, e⟩ := exchange_cases c p s
  · rw [e]; rfl
  · exact absurd (congrArg State.drop e) h
  · exact absurd (congrArg State.drop e) h
  · rw [e]; rfl
  · exact absurd (congrArg State.drop e) h

/-- Settles O31: an event of another kind is never dropped, and the drops of an exchange are known. -/
theorem droppedEventLeavesRegisters : Obligations.DroppedEventLeavesRegisters := by
  intro i s t h
  obtain ⟨hk, e⟩ | ⟨hk, e⟩ := exec_cases i s <;> obtain rfl := Host.Outcome.next.inj (e.symm.trans h)
  · simp [hk]
  · simp only [hk, true_and]
    exact ⟨exchange_drops_address_iff _ _ s, exchange_drops_data_iff _ _ s, exchange_of_drop⟩

/-! ## The one undefined condition (R124) -/

theorem unfounded_iff (s : State) :
    s.unfounded = true ↔ s.written = false ∧ (s.out.isSome = true ∨ s.drop = some .dataByteAbsent) := by
  simp [State.unfounded]

/-- A period with neither an output nor a drop read no register. -/
theorem not_unfounded_of_quiet {s : State} (ho : s.out = none) (hd : s.drop = none) : ¬ s.unfounded = true := by
  simp [unfounded_iff, ho, hd]

/-- The exchange that reads unwritten registers is the one in the data phase of full decode, whether it then accepts its
byte or drops it: an accepted address byte writes them, and the other outcomes do not read them. -/
theorem exchange_unfounded_iff (c p : Option Byte) (s : State) :
    (exchange c p s).unfounded = true ↔
      s.phase = .inData ∧ s.cfg.verbosity = .full ∧ s.written = false := by
  rw [unfounded_iff]
  obtain ⟨hp, -, e⟩ | ⟨b, hp, -, e⟩ | ⟨hp, hv, e⟩ | ⟨hp, hv, -, e⟩ | ⟨b, hp, hv, -, e⟩ :=
    exchange_cases c p s <;> rw [e]
  · simp [hp]
  · simp [hp]
  · simp [hv]
  · simp [hp, hv]
  · simp [hp, hv]

/-- Settles O29: an event of another kind is quiet, and what an exchange reads is known. -/
theorem unwrittenReadIsTold : Obligations.UnwrittenReadIsTold := by
  intro i s t h
  obtain ⟨hk, e⟩ | ⟨hk, e⟩ := exec_cases i s <;> obtain rfl := Host.Outcome.next.inj (e.symm.trans h)
  · exact iff_of_false (not_unfounded_of_quiet rfl rfl) fun ⟨hk', _⟩ => hk hk'
  · simp only [hk, true_and]
    exact exchange_unfounded_iff _ _ s

/-! ## The decoder never stops (R116) -/

theorem not_undefinedNext_of_feed_nil {s : State} (h : s.feed = []) : ¬ s.undefinedNext = true := by
  simp [State.undefinedNext, h]

theorem undefinedNext_cons_iff {s : State} {p : Period} {rest : List Period} (h : s.feed = p :: rest) :
    s.undefinedNext = true ↔
      p.isKind .dataExchange = true ∧ s.phase = .inData ∧ s.cfg.verbosity = .full ∧ s.written = false := by
  simp [State.undefinedNext, h, and_assoc]

/-- A period that does not deliver a data exchange leaves neither an output nor a drop. -/
theorem runPeriod_quiet {p : Period} (h : ¬ p.isKind .dataExchange = true) (s : State) :
    ∃ t, runPeriod p s = .next t ∧ t.out = none ∧ t.drop = none := by
  obtain ⟨-, e⟩ | ⟨-, -, e⟩ | ⟨-, -, e⟩ | ⟨hk, -⟩ := runPeriod_cases p
  · exact ⟨_, e s, rfl, rfl⟩
  · exact ⟨_, e s, rfl, rfl⟩
  · exact ⟨_, e s, rfl, rfl⟩
  · exact absurd hk h

/-- Settles O30: at the end of the feed and in a period without a data exchange the step is quiet, and a data exchange
reads an unwritten register exactly in the condition that is told before it. -/
theorem stepNeverStops : Obligations.StepNeverStops := by
  intro s
  cases hf : s.feed with
  | nil => exact ⟨_, step_nil hf, iff_of_false (not_unfounded_of_quiet rfl rfl) (not_undefinedNext_of_feed_nil hf)⟩
  | cons p rest =>
    rw [undefinedNext_cons_iff hf]
    by_cases hk : p.isKind .dataExchange = true
    · refine ⟨_, step_exchange hf hk, ?_⟩
      simp only [hk, true_and]
      exact exchange_unfounded_iff _ _ (presentPeriod p rest s)
    · obtain ⟨t, ht, ho, hd⟩ := runPeriod_quiet hk (presentPeriod p rest s)
      exact ⟨t, (step_cons hf).trans ht, iff_of_false (not_unfounded_of_quiet ho hd) fun ⟨hk', _⟩ => hk hk'⟩

/-! ## Recovery at the next cycle (R116) -/

/-- Settles O43: the `SEL` is quiet and the address byte after it begins the cycle. -/
theorem recoversAtNextCycle : Obligations.RecoversAtNextCycle := by
  intro s sel first rest hf hsel hfirst
  obtain ⟨u, hstep₁, -, hstep₂⟩ := cycle_begins hf hsel hfirst
  calc runAlone 2 (.next s) = runAlone 1 (.next u) := runAlone_succ hstep₁ 1
    _ = .next (s.beginCycle first rest) := runAlone_succ hstep₂ 0

end Sys2Proof.Machine
end

section
/-! PROOFS. 70_reset_and_hazards.md section 1, reset (R126 to R128): the state at reset, the period that applies it, and
the invariant that holds there. -/

namespace Sys2Proof.Machine

/-- Settles O8: the fields of the reset state, field by field, and the parameters bound at `State.reset`. -/
theorem resetStateHoldsFreeValues : Obligations.ResetStateHoldsFreeValues :=
  ⟨fun c n => ⟨resetWith_phase c n, resetWith_written c n, resetWith_curAddr c n, resetWith_dir c n,
    resetWith_out c n, resetWith_cfg c n⟩, Config.bound, rfl⟩

/-- Settles O9: `rst` is looked at before `ev_valid`. -/
theorem resetPeriodIgnoresEvent : Obligations.ResetPeriodIgnoresEvent := by
  intro s p rest hf hr
  rw [step_cons hf, runPeriod_reset _ hr]
  rfl

theorem resetWith_inv {c : Config} (n : Nat) (h : c.wf = true) : (State.resetWith c n).Inv where
  cfgWf := h
  feedWf := rfl
  stampsFit := ⟨Nat.two_pow_pos _, Nat.two_pow_pos _⟩
  output := nofun
  unwritten := fun _ => rfl

/-- Settles O49: at reset there is neither an output nor a feed, and the parameters bound at `State.reset` are legal. -/
theorem resetSatisfiesInvariant : Obligations.ResetSatisfiesInvariant :=
  ⟨fun _ => resetWith_inv, resetWith_inv 0 bound_wf⟩

end Sys2Proof.Machine
end

section
/-! PROOFS. 70_reset_and_hazards.md section 4, the end of the address phase (R133, R134): a lost address byte and an
`OTH` leave the cycle that was before it, and of two kinds of event only an exchange ends the phase. -/

namespace Sys2Proof.Machine

section Steps
variable {s : State} {p : Period} {rest : List Period}

/-- The step of an event of another kind than data exchange (R64, R65). -/
theorem step_quiet {k : Kind} (hf : s.feed = p :: rest) (hp : p.isKind k = true) (hk : k ≠ .dataExchange) :
    step s = .next (noOutput (recordKind k (presentPeriod p rest s))) := by
  obtain ⟨he, rfl⟩ := (isKind_iff _ p).1 hp
  obtain ⟨hr, hv⟩ := (isEvent_iff p).1 he
  rw [step_cons hf, runPeriod_event _ hr hv, exec_fetchInstr_quiet _ hk]

/-- The step that loses an address byte (R75). -/
theorem step_lostAddressByte (hs : s.phase = .awaitingAddress) (hf : s.feed = p :: rest)
    (hp : p.isKind .dataExchange = true) (hc : p.c2pValid = false) :
    step s = .next (dropEvent .addrByteAbsent (recordKind .dataExchange (presentPeriod p rest s))) := by
  rw [step_exchange hf hp, hc]
  exact congrArg Host.Outcome.next (exchange_awaiting (s := presentPeriod p rest s) none _ hs)

/-- Each of the three events that end the address phase without an address byte returns to the data phase of the
earlier cycle, and keeps its registers. -/
theorem step_endsAddressPhase (hs : s.phase = .awaitingAddress) (hf : s.feed = p :: rest)
    (hp : (p.isKind .dataExchange = true ∧ p.c2pValid = false) ∨ p.isKind .other0 = true ∨ p.isKind .other3 = true) :
    ∃ u, step s = .next u ∧ u.phase = .inData ∧ u.feed = rest ∧ u.cfg = s.cfg ∧ u.dir = s.dir ∧
      u.curAddr = s.curAddr := by
  obtain ⟨hk, hc⟩ | hk | hk := hp
  · exact ⟨_, step_lostAddressByte hs hf hk hc, rfl, rfl, rfl, rfl, rfl⟩
  · exact ⟨_, step_quiet hf hk nofun, rfl, rfl, rfl, rfl, rfl⟩
  · exact ⟨_, step_quiet hf hk nofun, rfl, rfl, rfl, rfl, rfl⟩

end Steps

/-- Settles O45: the first period returns to the data phase of the earlier cycle, and the second is a slot of it. -/
theorem lostAddressByteReportsStaleCycle : Obligations.LostAddressByteReportsStaleCycle := by
  intro s p q rest d hf hs hv hp hk hd
  obtain ⟨u, hstep₁, hphase, hfeed, hcfg, hdir, haddr⟩ := step_endsAddressPhase hs hf hp
  have hcycle : u.inCycle s.dir = true := (inCycle_iff _ u).2 ⟨hphase, hcfg ▸ hv, hdir⟩
  have hslot : q.isSlot s.dir = true := (isSlot_iff _ q).2 ⟨hk, d, hd⟩
  obtain ⟨t, hstep₂, hcycle', -, -, -, haddr', hout⟩ := step_slot hcycle hfeed hslot
  obtain ⟨-, -, hdir'⟩ := (inCycle_iff _ t).1 hcycle'
  rw [hcfg, haddr] at haddr'
  rw [haddr, hd] at hout
  exact ⟨t, (runAlone_succ hstep₁ 1).trans (runAlone_succ hstep₂ 0), hdir', haddr', hout⟩

/-! ## The premise `NoOtherKinds` (R134) -/

/-- A first period of a two-kind feed that delivers no data exchange is a `SEL` or no event. -/
theorem noOtherKinds_cons {p : Period} {rest : List Period} (h : noOtherKinds (p :: rest) = true)
    (hk : p.isKind .dataExchange = false) : p.isEvent = false ∨ p.isKind .selectAsserted = true := by
  simp only [noOtherKinds, List.all_cons, hk, Bool.or_false, Bool.and_eq_true, Bool.or_eq_true,
    Bool.not_eq_true'] at h
  exact h.1

/-- Settles O46: an idle period keeps `phase`, and a `SEL` writes the value that it has. -/
theorem twoKindStreamKeepsAddressPhase : Obligations.TwoKindStreamKeepsAddressPhase := by
  intro s p rest hf h hr hk hs
  obtain he | hsel := noOtherKinds_cons (hf ▸ h) hk
  · have hidle : p.evValid = false := by simpa [Period.isEvent, hr] using he
    exact ⟨_, (step_cons hf).trans (runPeriod_idle _ hr hidle), hs⟩
  · exact ⟨_, step_select hf hsel, rfl⟩

end Sys2Proof.Machine
end

section
/-! PROOFS. 70_reset_and_hazards.md sections 2 and 4, a stream that begins properly (R130, R135): until an address byte
is accepted the next event is the `SEL` of the opening or, while an address byte is awaited, that byte, so that no step
meets R124's condition. -/

namespace Sys2Proof

/-- The first event of the feed, if there is one, is an exchange with its controller-to-peripheral byte. -/
def addressSlotFirst (feed : List Period) : Bool := (feed.find? Period.isEvent).all Period.isAddressSlot

section Feed
variable {p : Period} (rest : List Period)

theorem opensProperly_cons_of_not_event (h : p.isEvent = false) : opensProperly (p :: rest) = opensProperly rest := by
  rw [opensProperly, opensProperly, List.filter_cons_of_neg (by simp [h])]

/-- A proper opening is a `SEL`, and an address slot first after it. -/
theorem opensProperly_cons_of_event (h : p.isEvent = true) :
    opensProperly (p :: rest) = (p.isKind .selectAsserted && addressSlotFirst rest) := by
  rw [opensProperly, addressSlotFirst, List.filter_cons_of_pos h, ← List.head?_filter]
  cases rest.filter Period.isEvent with
  | nil => simp
  | cons q qs => rfl

theorem addressSlotFirst_cons_of_not_event (h : p.isEvent = false) :
    addressSlotFirst (p :: rest) = addressSlotFirst rest := by
  rw [addressSlotFirst, addressSlotFirst, List.find?_cons_of_neg (by simp [h])]

theorem addressSlotFirst_cons_of_event (h : p.isEvent = true) :
    addressSlotFirst (p :: rest) = p.isAddressSlot := by
  rw [addressSlotFirst, List.find?_cons_of_pos h, Option.all_some]

end Feed

namespace Machine

/-- No step of a run from here without a reset meets R124's condition: an address byte has been accepted, or the events
begin as R130 asks, or that beginning is under way. -/
inductive State.Founded (s : State) : Prop where
  | written (h : s.written = true)
  | opening (h : opensProperly s.feed = true)
  | opened (hs : s.phase = .awaitingAddress) (h : addressSlotFirst s.feed = true)

/-! ## The next period -/

theorem isKind_unique {p : Period} {k k' : Kind} (h : p.isKind k = true) (h' : p.isKind k' = true) : k = k' :=
  ((isKind_iff k p).1 h).2.symm.trans ((isKind_iff k' p).1 h').2

section Next
variable {s : State} {p : Period} {rest : List Period}

/-- What the next event of a founded state can be. -/
theorem founded_event_cases (hf : s.feed = p :: rest) (hp : p.isEvent = true) (h : s.Founded) :
    s.written = true ∨ (p.isKind .selectAsserted = true ∧ addressSlotFirst rest = true) ∨
      (s.phase = .awaitingAddress ∧ p.isKind .dataExchange = true ∧ p.c2pValid = true) := by
  cases h with
  | written h => exact .inl h
  | opening h =>
    rw [hf, opensProperly_cons_of_event rest hp, Bool.and_eq_true] at h
    exact .inr (.inl h)
  | opened hs h =>
    rw [hf, addressSlotFirst_cons_of_event rest hp, Period.isAddressSlot, Bool.and_eq_true] at h
    exact .inr (.inr ⟨hs, h⟩)

theorem founded_not_undefinedNext (h : s.Founded) : ¬ s.undefinedNext = true := by
  cases hf : s.feed with
  | nil => exact not_undefinedNext_of_feed_nil hf
  | cons p rest =>
    rw [undefinedNext_cons_iff hf]
    rintro ⟨hk, hs, -, hw⟩
    obtain hw' | ⟨hsel, -⟩ | ⟨hs', -⟩ := founded_event_cases hf ((isKind_iff _ p).1 hk).1 h
    · exact absurd (hw.symm.trans hw') nofun
    · exact absurd (isKind_unique hk hsel) nofun
    · exact absurd (hs.symm.trans hs') nofun

/-! ## What a step keeps -/

theorem noOutput_founded (h : s.Founded) : (noOutput s).Founded := by
  cases h with
  | written h => exact .written h
  | opening h => exact .opening h
  | opened hs h => exact .opened hs h

/-- Without an event on the ports, the part of the opening that is still to come stays the same. -/
theorem founded_idle (hf : s.feed = p :: rest) (hp : p.isEvent = false) (h : s.Founded) :
    (noOutput (presentPeriod p rest s)).Founded := by
  cases h with
  | written h => exact .written h
  | opening h => exact .opening (by rwa [hf, opensProperly_cons_of_not_event rest hp] at h)
  | opened hs h => exact .opened hs (by rwa [hf, addressSlotFirst_cons_of_not_event rest hp] at h)

/-- Of the events that carry no data only the `SEL` of the opening comes before the address byte. -/
theorem founded_quiet {k : Kind} (hf : s.feed = p :: rest) (hp : p.isKind k = true) (hk : k ≠ .dataExchange)
    (h : s.Founded) : (noOutput (recordKind k (presentPeriod p rest s))).Founded := by
  obtain hw | ⟨hsel, hfirst⟩ | ⟨-, hx, -⟩ := founded_event_cases hf ((isKind_iff _ p).1 hp).1 h
  · exact .written hw
  · obtain rfl := isKind_unique hp hsel
    exact .opened rfl hfirst
  · exact absurd (isKind_unique hp hx) hk

theorem exchange_written_of_written (c b : Option Byte) (h : s.written = true) :
    (exchange c b s).written = true := by
  obtain ⟨-, -, e⟩ | ⟨_, -, -, e⟩ | ⟨-, -, e⟩ | ⟨-, -, -, e⟩ | ⟨_, -, -, -, e⟩ :=
    exchange_cases c b s <;> simp [e, h]

/-- After an exchange an address byte has been accepted: if none was before, the exchange is the opening's. -/
theorem exchange_written_of_founded (hf : s.feed = p :: rest) (hp : p.isKind .dataExchange = true)
    (h : s.Founded) :
    (exchange (optByte p.c2pValid p.c2p) (optByte p.p2cValid p.p2c) (presentPeriod p rest s)).written = true := by
  obtain hw | ⟨hsel, -⟩ | ⟨hs, -, hc⟩ := founded_event_cases hf ((isKind_iff _ p).1 hp).1 h
  · exact exchange_written_of_written _ _ hw
  · exact absurd (isKind_unique hp hsel) nofun
  · rw [hc]
    exact congrArg State.written (exchange_awaiting_present (s := presentPeriod p rest s) hs p.c2p _)

end Next

/-- What founded steps from `s` make of `t`: it is founded, the step that left it was defined, and the mark of an
accepted address byte is still set if it was in `s`. -/
structure State.FoundedFrom (s t : State) : Prop where
  founded : t.Founded
  defined : t.unfounded = false
  written : s.written = true → t.written = true

theorem foundedFrom_trans {s t u : State} (h : s.FoundedFrom t) (h' : t.FoundedFrom u) : s.FoundedFrom u :=
  ⟨h'.founded, h'.defined, h'.written ∘ h.written⟩

theorem runPeriod_founded {s t : State} {p : Period} {rest : List Period} (hf : s.feed = p :: rest)
    (hr : p.rst = false) (h : s.Founded) (ht : runPeriod p (presentPeriod p rest s) = .next t) :
    t.Founded ∧ (s.written = true → t.written = true) := by
  obtain ⟨hr', -⟩ | ⟨-, he, e⟩ | ⟨he, hk, e⟩ | ⟨hk, e⟩ := runPeriod_cases p
  · exact absurd (hr.symm.trans hr') nofun
  · obtain rfl := Host.Outcome.next.inj ((e _).symm.trans ht)
    exact ⟨founded_idle hf (by simp [Period.isEvent, he]) h, id⟩
  · obtain rfl := Host.Outcome.next.inj ((e _).symm.trans ht)
    exact ⟨founded_quiet hf ((isKind_iff _ p).2 ⟨he, rfl⟩) hk h, id⟩
  · obtain rfl := Host.Outcome.next.inj ((e _).symm.trans ht)
    have hw := exchange_written_of_founded hf hk h
    exact ⟨.written hw, fun _ => hw⟩

theorem step_founded {s t : State} (h : s.Founded) (hr : ∀ p ∈ s.feed.head?, p.rst = false)
    (ht : step s = .next t) : s.FoundedFrom t := by
  have hdefined : t.unfounded = false := by
    obtain ⟨u, hu, hiff⟩ := stepNeverStops s
    obtain rfl := Host.Outcome.next.inj (hu.symm.trans ht)
    exact Bool.eq_false_of_not_eq_true fun hunf => founded_not_undefinedNext h (hiff.1 hunf)
  obtain ⟨-, rfl⟩ | ⟨p, rest, hf, hrun⟩ := step_feed_cases ht
  · exact ⟨noOutput_founded h, hdefined, id⟩
  · obtain ⟨hfounded, hwritten⟩ := runPeriod_founded hf (hr p (by rw [hf]; rfl)) h hrun
    exact ⟨hfounded, hdefined, hwritten⟩

/-! ## The run -/

theorem runAlone_answers (k : Nat) (s : State) : ∃ t, runAlone k (.next s) = .next t := by
  induction k generalizing s with
  | zero => exact ⟨s, rfl⟩
  | succ k ih =>
    obtain ⟨u, hu, -⟩ := step_answers s
    rw [runAlone_succ hu]
    exact ih u

theorem noReset_iff (feed : List Period) : noReset feed = true ↔ ∀ p ∈ feed, p.rst = false := by
  simp [noReset]

/-- Without a reset in the feed, any number of steps from a founded state, and at least one, is founded. -/
theorem run_founded {s u t : State} (k : Nat) (h : s.Founded) (hr : noReset s.feed = true)
    (hu : step s = .next u) (ht : runAlone k (.next u) = .next t) : s.FoundedFrom t := by
  rw [noReset_iff] at hr
  have hfirst : s.FoundedFrom u := step_founded h (fun p hp => hr p (List.mem_of_mem_head? hp)) hu
  have hrest : (u.feed.take k).all (fun p => !p.rst) = true := by
    obtain ⟨u', hu', hfeed⟩ := step_answers s
    obtain rfl := Host.Outcome.next.inj (hu'.symm.trans hu)
    rw [hfeed]
    exact List.all_eq_true.2 fun p hp => by simp [hr p (List.mem_of_mem_tail (List.mem_of_mem_take hp))]
  refine (run_keeps (Q := fun _ => True) ?_ k hfirst hrest).2 t ht
  intro v w hv hhead hw
  exact ⟨foundedFrom_trans hv (step_founded hv.founded (by simpa using hhead) hw), fun _ _ => trivial⟩

/-- Settles O44: every run answers, and a proper opening or an accepted address byte makes it founded. -/
theorem properStreamIsFounded : Obligations.ProperStreamIsFounded := by
  intro s k
  obtain ⟨u, hu, -⟩ := step_answers s
  obtain ⟨t, ht⟩ := runAlone_answers k u
  refine ⟨t, (runAlone_succ hu k).trans ht, fun hr h => ?_⟩
  have hfounded : s.Founded := h.elim .opening .written
  obtain ⟨hnext, hdefined, hwritten⟩ := run_founded k hfounded hr hu ht
  exact ⟨hdefined, Bool.eq_false_of_not_eq_true (founded_not_undefinedNext hnext), hwritten⟩

end Machine

end Sys2Proof
end
